-- ==== Sys2Proof/Word.lean ====
section
/-! DEFINITION. The widths of the core's values, and its two groups of bytes: the 4-byte column
(a schedule word) and the 16-byte block (00_scope.md R10, R11). -/

namespace Sys2Proof

/-- An unsigned 8-bit value (R10). -/
abbrev Byte := BitVec 8

/-- An unsigned 32-bit value (R10): what one bus access carries, and a command word (R90). -/
abbrev Word := BitVec 32

/-- A byte offset into the host window of 8192 bytes (R60). -/
abbrev Offset := BitVec 13

/-- Four bytes, index 0 first: a column of a state in rows 0 to 3, or a schedule word `w[j]` (R11). -/
structure Col where
  b0 : Byte
  b1 : Byte
  b2 : Byte
  b3 : Byte
  deriving DecidableEq, Repr

/-- Sixteen bytes as four columns, column 0 first (R11): a key, a round key, a state, a block of MSG. -/
structure Block where
  c0 : Col
  c1 : Col
  c2 : Col
  c3 : Col
  deriving DecidableEq, Repr

/-- Four bytes 0x00. -/
def Col.zero : Col := ⟨0, 0, 0, 0⟩

/-- Sixteen bytes 0x00. -/
def Block.zero : Block := ⟨Col.zero, Col.zero, Col.zero, Col.zero⟩

/-- The round-key schedule: 44 words `w[0..43]`, 176 bytes, 11 round keys (10_state.md R24). -/
abbrev Schedule := Vector Col 44

/-- A schedule of 176 bytes 0x00. -/
def Schedule.zero : Schedule := Vector.replicate 44 Col.zero

end Sys2Proof
end

