-- ==== Sys2Proof/Config.lean ====
section
/-! DEFINITION. What an implementation fixes (MSG_BLOCKS and PAD_POLICY, 00_scope.md R8 and R9), and
the free values of the spec's `choose` and ANY (R14), each an opaque constant without a body. -/

namespace Sys2Proof

/-- PAD_POLICY (R9): what a failed PKCS#7 check does. -/
inductive PadPolicy where
  /-- encoded 0: the unpadded buffer is the result (42_ecb_sequencer.md R205) -/
  | permissive
  /-- encoded 1: the job fails with InvalidPadding (R206) -/
  | strict
  deriving DecidableEq, Repr, Inhabited

/-- The arguments of the machine, fixed for its lifetime (10_state.md R37).
MSG_BLOCKS is held as the index of the last block, so that it lies in 1..256 by its type (R8).
State carries them because `exec` and `step` have no other argument (log 6, DESIGN CHOICE, safe). -/
structure Params where
  lastBlock : Fin 256
  padPolicy : PadPolicy
  deriving DecidableEq, Repr

/-- MSG_BLOCKS, the capacity of the message buffer in 16-byte blocks (R8). -/
def Params.msgBlocks (p : Params) : Nat := p.lastBlock.val + 1

/-- MSG_BYTES = 16 × MSG_BLOCKS (R8). -/
def Params.msgBytes (p : Params) : Nat := 16 * p.msgBlocks

/-- How many blocks the buffer has fewer than the reference 256 (R8): each implementation decides. -/
opaque Config.blocksBelowReference : Fin 256

/-- The padding policy (R9): each implementation decides. -/
opaque Config.padPolicy : PadPolicy

/-- The parameters of the machine right after reset: free (log 6). -/
def Config.params : Params where
  lastBlock := Config.blocksBelowReference.rev
  padPolicy := Config.padPolicy

/-- ANY_32 (R14): the value of the n-th free draw of a read (20_memory.md R76, R82; log 3). -/
opaque Config.anyWord : Nat → Word

/-- ANY_8 for each byte of MSG after a reset (10_state.md R38): `resetByte e a` is the byte at
offset `a` after the reset whose draw number is `e` (log 4). -/
opaque Config.resetByte : Nat → Nat → Byte

/-- `choose b in PENDING` (42_ecb_sequencer.md R202): the n-th free draw, an index into the blocks
pending, taken modulo how many there are, so that every member can be chosen (log 5). -/
opaque Config.blockChoice : Nat → Nat

/-- The interleaving (20_memory.md R81) where `turns` of State does not fix it: the n-th free draw says
how many turns the host has before the core's next one. It is a number, whichever it is, so the core's
turn comes: the weak fairness of 70_reset_and_hazards.md R289 (log 2, log 13). -/
opaque Config.hostTurns : Nat → Nat

end Sys2Proof
end

