-- ==== Sys2Proof/Syntax.lean ====
section
/-! DEFINITION. The instructions: the twelve commands of 30_encoding.md R92 and the host's two bus
operations of 20_memory.md R77 and R78, one constructor for each row of spec/opcode_table.json. -/

namespace Sys2Proof

/-- An instruction. A block index `b` and a round `r` are the operand OPA as an unsigned integer (R91);
`WellFormed` holds the range 0 to 255. -/
inductive Instr where
  /-- NOP (R130) -/
  | nop
  /-- KEY_EXPAND (R131) -/
  | keyExpand
  /-- KEY_CLEAR (R132) -/
  | keyClear
  /-- SCHED_CLEAR (R133) -/
  | schedClear
  /-- LOAD_STATE b (R170) -/
  | loadState (b : Nat)
  /-- STORE_STATE b (R171) -/
  | storeState (b : Nat)
  /-- INV_SHIFT_ROWS (R172) -/
  | invShiftRows
  /-- INV_SUB_BYTES (R173) -/
  | invSubBytes
  /-- INV_MIX_COLUMNS (R174) -/
  | invMixColumns
  /-- ADD_ROUND_KEY r (R175) -/
  | addRoundKey (r : Nat)
  /-- DECRYPT_STATE (R176) -/
  | decryptState
  /-- ECB_DECRYPT (R200) -/
  | ecbDecrypt
  /-- RD A (R77): a 13-bit offset -/
  | rd (off : Offset)
  /-- WR A, d (R78): a 13-bit offset, the data, the byte enables `be[3:0]` -/
  | wr (off : Offset) (data : Word) (be : BitVec 4)
  deriving DecidableEq, Repr

end Sys2Proof
end

