-- ==== Sys2Proof/Machine/State.lean ====
section
/-! DEFINITION. The state of the machine: every piece of state of 10_state.md R22 to R34 and the model's
own fields, which hold the host agent, the interleaving and the count of free draws. -/

namespace Sys2Proof.Machine

/-- PHASE of the job state (R34). -/
inductive Phase where
  | idle
  | exec
  | ecbBlocks
  | ecbFinish
  deriving DecidableEq, Repr

/-- The errors a command raises (60_exceptions.md R240). -/
inductive CmdError where
  | invalidInputLength
  | invalidKeyLength
  | invalidPadding
  | illegalCommand
  | noSchedule
  | badOperand
  deriving DecidableEq, Repr

/-- The two agents (R19). -/
inductive Agent where
  | host
  | core
  deriving DecidableEq, Repr

/-- What the host gets back from a bus access (20_memory.md R76 to R78). -/
inductive Response where
  /-- no access since the model began -/
  | none
  /-- OK, with the value read -/
  | readOk (value : Word)
  /-- BUSERR, with the ANY_32 that comes with it -/
  | readErr (value : Word)
  /-- OK to a write -/
  | writeOk
  /-- BUSERR to a write -/
  | writeErr
  deriving DecidableEq, Repr

/-- A line of what the host and the environment do (30_encoding.md R101 and R104; the reset input,
70_reset_and_hazards.md R280). -/
inductive HostLine where
  /-- `rd <off>` -/
  | rd (off : Offset)
  /-- `wr <off>, <value>` with byte enables `be` (`1111` for the assembler's line) -/
  | wr (off : Offset) (data : Word) (be : BitVec 4)
  /-- `wait`: `rd STATUS -> s`, repeated while `s[0] = 1` -/
  | wait
  /-- `expect <off>, <value>`: the program fails if the value read is another -/
  | expect (off : Offset) (value : Word)
  /-- the environment presents `rst` -/
  | rst
  deriving DecidableEq, Repr

/-- The message buffer: the bytes written since the last reset, as pairs of a byte offset of MSG and
the byte, offsets strictly rising (`Memory.wf`). An offset that is not listed has not been
written since the last reset; what it reads as is `State.msgByte` (log 4). -/
abbrev Memory := List Host.Cell

/-- Why the model stops. The spec says of each of these that it cannot occur; no run from reset reaches
one (log 9). -/
inductive Fault where
  /-- raised by `coreStep` with BUSY = 1 and PHASE = IDLE: "no step (cannot occur while BUSY = 1)" (R97). Safe. -/
  | idleWhileBusy
  /-- raised by `ecbBlockStep` with PENDING empty: there is no member to choose (R202). Safe. -/
  | noPendingBlock
  /-- raised by the ECB block and finish steps for a core access outside the buffer: "a core call outside
  the buffer therefore cannot occur" (R75, R204). Safe. -/
  | outsideBuffer
  deriving DecidableEq, Repr

/-- Why an instruction has no meaning. -/
inductive Refusal where
  /-- raised by `exec` for an instruction the model gives no meaning yet; no arm raises it. Safe. -/
  | notModelled (mnemonic : String)
  deriving DecidableEq, Repr

/-- The machine. The first eighteen fields are the record of R39; `params` are the machine's arguments
(R37); the rest is the model's own. -/
structure State where
  /-- KEY[0..15] (R22) -/
  key : Block
  /-- KWMASK: bit j is 1 when KEYj has been written since the key was consumed or cleared (R23) -/
  kwmask : BitVec 4
  /-- RKB[0..175], as the words w[0..43] (R24) -/
  rk : Schedule
  /-- SV (R25) -/
  sv : Bool
  /-- STATE[0..15] (R26) -/
  state : Block
  /-- MSG[0..MSG_BYTES-1] (R27) -/
  msg : Memory
  /-- LEN (R28) -/
  len : BitVec 13
  /-- OUTLEN (R29) -/
  outlen : BitVec 13
  /-- INTEN.DONE_IE (R30) -/
  doneIe : Bool
  /-- STATUS.BUSY (R31) -/
  busy : Bool
  /-- STATUS.DONE (R31) -/
  done : Bool
  /-- STATUS.ERR (R31) -/
  err : Bool
  /-- STATUS.OVR (R31) -/
  ovr : Bool
  /-- STATUS.ERRCODE (R31) -/
  errcode : BitVec 4
  /-- CMDL, the command word accepted last (R33) -/
  cmdl : Word
  /-- JOB.PHASE (R34) -/
  phase : Phase
  /-- JOB.PENDING (R34): the block indices still to decrypt, strictly rising (log 15) -/
  pending : List Nat
  /-- JOB.NBLK (R34) -/
  nblk : Nat
  /-- MSG_BLOCKS and PAD_POLICY (R37); no step changes them (log 6) -/
  params : Params
  /-- the model's own: the draw number of the last reset (log 4) -/
  epoch : Nat
  /-- the model's own: how many free values have been drawn (log 3) -/
  draws : Nat
  /-- the model's own: the response to the host's last access (log 7) -/
  resp : Response
  /-- the model's own: what the host and the environment still do (log 1) -/
  hostOps : List HostLine
  /-- the model's own: whose turn each coming step is (log 2) -/
  turns : List Agent
  /-- the model's own: an `expect` line did not hold (log 10) -/
  hostFailed : Bool
  deriving DecidableEq, Repr

/-- The machine right after reset (10_state.md R38): the values of the spec; the parameters are free;
the model's own fields are at the start (log 1 to 7, 10, 19; DESIGN CHOICE). -/
def State.reset : State where
  key := Block.zero
  kwmask := 0
  rk := Schedule.zero
  sv := false
  state := Block.zero
  msg := []
  len := 0
  outlen := 0
  doneIe := false
  busy := false
  done := false
  err := false
  ovr := false
  errcode := 0
  cmdl := 0
  phase := .idle
  pending := []
  nblk := 0
  params := Config.params
  epoch := 0
  draws := 0
  resp := .none
  hostOps := []
  turns := []
  hostFailed := false

end Sys2Proof.Machine
end

