-- ==== Sys2Proof/Machine/Flags.lean ====
section
/-! DEFINITION. The fields of STATUS, the error codes and the interrupt level (10_state.md R31, R32, R35;
60_exceptions.md R240, R249). -/

namespace Sys2Proof.Machine

/-- `code(E)` (R240). -/
def CmdError.code : CmdError → BitVec 4
  | .invalidInputLength => 1
  | .invalidKeyLength => 2
  | .invalidPadding => 3
  | .illegalCommand => 4
  | .noSchedule => 5
  | .badOperand => 6

/-- `{ 12'b0, ERRCODE[3:0], 4'b0, KWMASK[3:0], 3'b0, SV, OVR, ERR, DONE, BUSY }` (R31, R66). -/
def statusWord (s : State) : Word :=
  (0 : BitVec 12) ++ s.errcode ++ (0 : BitVec 4) ++ s.kwmask ++ (0 : BitVec 3) ++
    BitVec.ofBool s.sv ++ BitVec.ofBool s.ovr ++ BitVec.ofBool s.err ++ BitVec.ofBool s.done ++
    BitVec.ofBool s.busy

/-- The bits of STATUS that read ANY while BUSY = 1: SV (4) and KWMASK (11:8) (R66, R82). -/
def statusFreeMask : Word := 0x00000F10

/-- `irq = INTEN.DONE_IE & STATUS.DONE` (R35, R249): a level, not state. -/
def State.irq (s : State) : Bool := s.doneIe && s.done

end Sys2Proof.Machine
end

