-- ==== Sys2Proof/Machine/Bytes.lean ====
section
/-! DEFINITION. Bytes of columns and blocks, and the one byte order of the host window
(00_scope.md R11; 20_memory.md R74). -/

namespace Sys2Proof

/-- The byte of a column in row `r`. -/
def Col.byte (c : Col) : Nat → Byte
  | 0 => c.b0
  | 1 => c.b1
  | 2 => c.b2
  | _ => c.b3

/-- Column `i` of a block. -/
def Block.col (s : Block) : Nat → Col
  | 0 => s.c0
  | 1 => s.c1
  | 2 => s.c2
  | _ => s.c3

/-- "byte index `i` maps to row `i mod 4`, column `i div 4`" (R11); meant for `i < 16`. -/
def Block.byte (s : Block) (i : Nat) : Byte := (s.col (i / 4)).byte (i % 4)

/-- The block whose byte `i` is `f i`. -/
def Block.ofFn (f : Nat → Byte) : Block :=
  ⟨⟨f 0, f 1, f 2, f 3⟩, ⟨f 4, f 5, f 6, f 7⟩, ⟨f 8, f 9, f 10, f 11⟩, ⟨f 12, f 13, f 14, f 15⟩⟩

/-- The four bytes in index order. -/
def Col.toList (c : Col) : List Byte := [c.b0, c.b1, c.b2, c.b3]

/-- The sixteen bytes in index order. -/
def Block.toList (s : Block) : List Byte :=
  s.c0.toList ++ s.c1.toList ++ s.c2.toList ++ s.c3.toList

/-- A block with its column `j` replaced: what a write of KEYj or STATEj does (R70, R71). -/
def Block.setCol (s : Block) (j : Fin 4) (c : Col) : Block :=
  match j with
  | 0 => { s with c0 := c }
  | 1 => { s with c1 := c }
  | 2 => { s with c2 := c }
  | 3 => { s with c3 := c }

/-- The word on the bus: the byte of the lowest index in bits 31:24 (R74). -/
def Col.toWord (c : Col) : Word := c.b0 ++ c.b1 ++ c.b2 ++ c.b3

/-- The bytes of a word on the bus: bits 31:24 first (R74). -/
def Col.ofWord (w : Word) : Col :=
  ⟨w.extractLsb' 24 8, w.extractLsb' 16 8, w.extractLsb' 8 8, w.extractLsb' 0 8⟩

/-- Bytewise exclusive or of two columns (R127). -/
def Col.xor (x y : Col) : Col := ⟨x.b0 ^^^ y.b0, x.b1 ^^^ y.b1, x.b2 ^^^ y.b2, x.b3 ^^^ y.b3⟩

end Sys2Proof
end

