-- ==== Sys2Proof/Machine/KeySchedule.lean ====
section
/-! DEFINITION. The key schedule generator as pure functions: arithmetic of GF(2^8), the forward S-box,
the round constants and the key expansion (40_key_schedule.md R120 to R128). -/

namespace Sys2Proof.Machine

/-- `xtime(a)`: a byte times x in GF(2^8) (R120). -/
def xtime (a : Byte) : Byte := if a.getLsbD 7 then (a <<< 1) ^^^ 0x1B else a <<< 1

/-- The loop of R121 from bit `k` on, `n` bits to go. -/
def gmulFrom : Nat → Nat → Byte → Byte → Byte → Byte
  | 0, _, _, _, p => p
  | n + 1, k, a, b, p => gmulFrom n (k + 1) (xtime a) b (if b.getLsbD k then p ^^^ a else p)

/-- `a • b`: the product of two bytes in GF(2^8) modulo 0x11B (R121). -/
def gmul (a b : Byte) : Byte := gmulFrom 8 0 a b 0

/-- The entry "in the row of x's high hex digit and the column of its low hex digit" (R122, R160). -/
def tableEntry (rows : List (List Byte)) (x : Byte) : Byte :=
  (rows.getD (x.toNat / 16) []).getD (x.toNat % 16) 0

/-- The table of R122, rows 0x to 7x. -/
def sboxRowsLow : List (List Byte) :=
  [ [0x63, 0x7c, 0x77, 0x7b, 0xf2, 0x6b, 0x6f, 0xc5, 0x30, 0x01, 0x67, 0x2b, 0xfe, 0xd7, 0xab, 0x76],
    [0xca, 0x82, 0xc9, 0x7d, 0xfa, 0x59, 0x47, 0xf0, 0xad, 0xd4, 0xa2, 0xaf, 0x9c, 0xa4, 0x72, 0xc0],
    [0xb7, 0xfd, 0x93, 0x26, 0x36, 0x3f, 0xf7, 0xcc, 0x34, 0xa5, 0xe5, 0xf1, 0x71, 0xd8, 0x31, 0x15],
    [0x04, 0xc7, 0x23, 0xc3, 0x18, 0x96, 0x05, 0x9a, 0x07, 0x12, 0x80, 0xe2, 0xeb, 0x27, 0xb2, 0x75],
    [0x09, 0x83, 0x2c, 0x1a, 0x1b, 0x6e, 0x5a, 0xa0, 0x52, 0x3b, 0xd6, 0xb3, 0x29, 0xe3, 0x2f, 0x84],
    [0x53, 0xd1, 0x00, 0xed, 0x20, 0xfc, 0xb1, 0x5b, 0x6a, 0xcb, 0xbe, 0x39, 0x4a, 0x4c, 0x58, 0xcf],
    [0xd0, 0xef, 0xaa, 0xfb, 0x43, 0x4d, 0x33, 0x85, 0x45, 0xf9, 0x02, 0x7f, 0x50, 0x3c, 0x9f, 0xa8],
    [0x51, 0xa3, 0x40, 0x8f, 0x92, 0x9d, 0x38, 0xf5, 0xbc, 0xb6, 0xda, 0x21, 0x10, 0xff, 0xf3, 0xd2] ]

/-- The table of R122, rows 8x to Fx. -/
def sboxRowsHigh : List (List Byte) :=
  [ [0xcd, 0x0c, 0x13, 0xec, 0x5f, 0x97, 0x44, 0x17, 0xc4, 0xa7, 0x7e, 0x3d, 0x64, 0x5d, 0x19, 0x73],
    [0x60, 0x81, 0x4f, 0xdc, 0x22, 0x2a, 0x90, 0x88, 0x46, 0xee, 0xb8, 0x14, 0xde, 0x5e, 0x0b, 0xdb],
    [0xe0, 0x32, 0x3a, 0x0a, 0x49, 0x06, 0x24, 0x5c, 0xc2, 0xd3, 0xac, 0x62, 0x91, 0x95, 0xe4, 0x79],
    [0xe7, 0xc8, 0x37, 0x6d, 0x8d, 0xd5, 0x4e, 0xa9, 0x6c, 0x56, 0xf4, 0xea, 0x65, 0x7a, 0xae, 0x08],
    [0xba, 0x78, 0x25, 0x2e, 0x1c, 0xa6, 0xb4, 0xc6, 0xe8, 0xdd, 0x74, 0x1f, 0x4b, 0xbd, 0x8b, 0x8a],
    [0x70, 0x3e, 0xb5, 0x66, 0x48, 0x03, 0xf6, 0x0e, 0x61, 0x35, 0x57, 0xb9, 0x86, 0xc1, 0x1d, 0x9e],
    [0xe1, 0xf8, 0x98, 0x11, 0x69, 0xd9, 0x8e, 0x94, 0x9b, 0x1e, 0x87, 0xe9, 0xce, 0x55, 0x28, 0xdf],
    [0x8c, 0xa1, 0x89, 0x0d, 0xbf, 0xe6, 0x42, 0x68, 0x41, 0x99, 0x2d, 0x0f, 0xb0, 0x54, 0xbb, 0x16] ]

/-- SBOX, the forward S-box (R122). -/
def sbox (x : Byte) : Byte := tableEntry (sboxRowsLow ++ sboxRowsHigh) x

/-- RCON[r] for r = 1 to 10 (R124); RCON[0] is not used. -/
def rcon : Nat → Byte
  | 1 => 0x01
  | 2 => 0x02
  | 3 => 0x04
  | 4 => 0x08
  | 5 => 0x10
  | 6 => 0x20
  | 7 => 0x40
  | 8 => 0x80
  | 9 => 0x1B
  | 10 => 0x36
  | _ => 0

/-- `RotWord(a0, a1, a2, a3) = (a1, a2, a3, a0)` (R125). -/
def rotWord (w : Col) : Col := ⟨w.b1, w.b2, w.b3, w.b0⟩

/-- `SubWord` (R126). -/
def subWord (w : Col) : Col := ⟨sbox w.b0, sbox w.b1, sbox w.b2, sbox w.b3⟩

/-- `temp` of R127 for index `i`, from `w[i-1]`. -/
def scheduleTemp (i : Nat) (prev : Col) : Col :=
  if i % 4 = 0 then Col.xor (subWord (rotWord prev)) ⟨rcon (i / 4), 0, 0, 0⟩ else prev

/-- The `n` words from index `i` on, given the four words before them, `w[i-4]` first:
`w[i] = w[i-4] ^ temp` (R127; 90_conflicts.md C1). -/
def expandFrom : Nat → Nat → Col → Col → Col → Col → List Col
  | 0, _, _, _, _, _ => []
  | n + 1, i, a, b, c, d =>
    Col.xor a (scheduleTemp i d) :: expandFrom n (i + 1) b c d (Col.xor a (scheduleTemp i d))

/-- The 44 words of `KeyExpansion(K)` in order (R127). -/
def expandedWords (k : Block) : List Col :=
  k.c0 :: k.c1 :: k.c2 :: k.c3 :: expandFrom 40 4 k.c0 k.c1 k.c2 k.c3

theorem length_expandFrom (n : Nat) :
    ∀ (i : Nat) (a b c d : Col), (expandFrom n i a b c d).length = n := by
  induction n with
  | zero => intros; rfl
  | succ n ih => intros; simp [expandFrom, ih]

theorem length_expandedWords (k : Block) : (expandedWords k).length = 44 := by
  simp [expandedWords, length_expandFrom]

/-- `KeyExpansion(K)`: a 16-byte key to the 44 words `w[0..43]` (R127). -/
def keyExpansion (k : Block) : Schedule :=
  ⟨(expandedWords k).toArray, by simp [length_expandedWords]⟩

/-- Schedule word `w[j]` (R24); meant for `j < 44`. -/
def schedWord (rk : Schedule) (j : Nat) : Col := rk.toList.getD j Col.zero

/-- `RKB[k] = w[k div 4][k mod 4]` (R24); meant for `k < 176`. -/
def rkByte (rk : Schedule) (k : Nat) : Byte := (schedWord rk (k / 4)).byte (k % 4)

/-- Round key `r` (R11, R128): the block `RKB[16r..16r+15]`. -/
def roundKey (rk : Schedule) (r : Nat) : Block := Block.ofFn fun i => rkByte rk (16 * r + i)

end Sys2Proof.Machine
end

