-- ==== Sys2Proof/Machine/InvCipher.lean ====
section
/-! DEFINITION. The inverse cipher pipeline as pure functions: the inverse S-box, the four inverse stages
and the single-block inverse cipher (41_inverse_cipher.md R160 to R166). -/

namespace Sys2Proof.Machine

/-- The table of R160, rows 0x to 7x. -/
def invSboxRowsLow : List (List Byte) :=
  [ [0x52, 0x09, 0x6a, 0xd5, 0x30, 0x36, 0xa5, 0x38, 0xbf, 0x40, 0xa3, 0x9e, 0x81, 0xf3, 0xd7, 0xfb],
    [0x7c, 0xe3, 0x39, 0x82, 0x9b, 0x2f, 0xff, 0x87, 0x34, 0x8e, 0x43, 0x44, 0xc4, 0xde, 0xe9, 0xcb],
    [0x54, 0x7b, 0x94, 0x32, 0xa6, 0xc2, 0x23, 0x3d, 0xee, 0x4c, 0x95, 0x0b, 0x42, 0xfa, 0xc3, 0x4e],
    [0x08, 0x2e, 0xa1, 0x66, 0x28, 0xd9, 0x24, 0xb2, 0x76, 0x5b, 0xa2, 0x49, 0x6d, 0x8b, 0xd1, 0x25],
    [0x72, 0xf8, 0xf6, 0x64, 0x86, 0x68, 0x98, 0x16, 0xd4, 0xa4, 0x5c, 0xcc, 0x5d, 0x65, 0xb6, 0x92],
    [0x6c, 0x70, 0x48, 0x50, 0xfd, 0xed, 0xb9, 0xda, 0x5e, 0x15, 0x46, 0x57, 0xa7, 0x8d, 0x9d, 0x84],
    [0x90, 0xd8, 0xab, 0x00, 0x8c, 0xbc, 0xd3, 0x0a, 0xf7, 0xe4, 0x58, 0x05, 0xb8, 0xb3, 0x45, 0x06],
    [0xd0, 0x2c, 0x1e, 0x8f, 0xca, 0x3f, 0x0f, 0x02, 0xc1, 0xaf, 0xbd, 0x03, 0x01, 0x13, 0x8a, 0x6b] ]

/-- The table of R160, rows 8x to Fx. -/
def invSboxRowsHigh : List (List Byte) :=
  [ [0x3a, 0x91, 0x11, 0x41, 0x4f, 0x67, 0xdc, 0xea, 0x97, 0xf2, 0xcf, 0xce, 0xf0, 0xb4, 0xe6, 0x73],
    [0x96, 0xac, 0x74, 0x22, 0xe7, 0xad, 0x35, 0x85, 0xe2, 0xf9, 0x37, 0xe8, 0x1c, 0x75, 0xdf, 0x6e],
    [0x47, 0xf1, 0x1a, 0x71, 0x1d, 0x29, 0xc5, 0x89, 0x6f, 0xb7, 0x62, 0x0e, 0xaa, 0x18, 0xbe, 0x1b],
    [0xfc, 0x56, 0x3e, 0x4b, 0xc6, 0xd2, 0x79, 0x20, 0x9a, 0xdb, 0xc0, 0xfe, 0x78, 0xcd, 0x5a, 0xf4],
    [0x1f, 0xdd, 0xa8, 0x33, 0x88, 0x07, 0xc7, 0x31, 0xb1, 0x12, 0x10, 0x59, 0x27, 0x80, 0xec, 0x5f],
    [0x60, 0x51, 0x7f, 0xa9, 0x19, 0xb5, 0x4a, 0x0d, 0x2d, 0xe5, 0x7a, 0x9f, 0x93, 0xc9, 0x9c, 0xef],
    [0xa0, 0xe0, 0x3b, 0x4d, 0xae, 0x2a, 0xf5, 0xb0, 0xc8, 0xeb, 0xbb, 0x3c, 0x83, 0x53, 0x99, 0x61],
    [0x17, 0x2b, 0x04, 0x7e, 0xba, 0x77, 0xd6, 0x26, 0xe1, 0x69, 0x14, 0x63, 0x55, 0x21, 0x0c, 0x7d] ]

/-- INVSBOX, the inverse S-box (R160). -/
def invSbox (x : Byte) : Byte := tableEntry (invSboxRowsLow ++ invSboxRowsHigh) x

/-- InvShiftRowsF: row `r` shifted right by `r` positions, `t[r, (c + r) mod 4] = s[r, c]` (R161).
Byte `i` of the result, in row `i mod 4` and column `i div 4`, comes from column `i div 4 - i mod 4`. -/
def invShiftRowsF (s : Block) : Block :=
  Block.ofFn fun i => s.byte (4 * ((i / 4 + 4 - i % 4) % 4) + i % 4)

/-- InvSubBytesF: `t[i] = INVSBOX[s[i]]` (R162). -/
def invSubBytesF (s : Block) : Block := Block.ofFn fun i => invSbox (s.byte i)

/-- One column of InvMixColumnsF (R163). -/
def invMixColumn (a : Col) : Col :=
  ⟨gmul 0x0E a.b0 ^^^ gmul 0x0B a.b1 ^^^ gmul 0x0D a.b2 ^^^ gmul 0x09 a.b3,
   gmul 0x09 a.b0 ^^^ gmul 0x0E a.b1 ^^^ gmul 0x0B a.b2 ^^^ gmul 0x0D a.b3,
   gmul 0x0D a.b0 ^^^ gmul 0x09 a.b1 ^^^ gmul 0x0E a.b2 ^^^ gmul 0x0B a.b3,
   gmul 0x0B a.b0 ^^^ gmul 0x0D a.b1 ^^^ gmul 0x09 a.b2 ^^^ gmul 0x0E a.b3⟩

/-- InvMixColumnsF: each column times the fixed matrix over GF(2^8) (R163). -/
def invMixColumnsF (s : Block) : Block :=
  ⟨invMixColumn s.c0, invMixColumn s.c1, invMixColumn s.c2, invMixColumn s.c3⟩

/-- AddRoundKeyF: `t[i] = s[i] ^ RK_r[i]` with `RK_r[i] = RKB[16r + i]` (R164). -/
def addRoundKeyF (rk : Schedule) (s : Block) (r : Nat) : Block :=
  Block.ofFn fun i => s.byte i ^^^ rkByte rk (16 * r + i)

/-- Step 2 of R165 for the rounds `r` down to 1: InvShiftRows, InvSubBytes, AddRoundKey, InvMixColumns
in this order (R166). -/
def invRounds (rk : Schedule) : Nat → Block → Block
  | 0, s => s
  | r + 1, s =>
    invRounds rk r (invMixColumnsF (addRoundKeyF rk (invSubBytesF (invShiftRowsF s)) (r + 1)))

/-- `InvCipher(c, RKB)`: the single-block inverse cipher (R165). -/
def invCipher (c : Block) (rk : Schedule) : Block :=
  addRoundKeyF rk (invSubBytesF (invShiftRowsF (invRounds rk 9 (addRoundKeyF rk c 10)))) 0

end Sys2Proof.Machine
end

