-- ==== Sys2Proof/Machine/Memory.lean ====
section
/-! DEFINITION. The message buffer and the core's primitives on it (10_state.md R27; 20_memory.md R75). -/

namespace Sys2Proof.Machine

/-- The canonical form: offsets strictly rising. An unlisted offset reads as "not written" (`none`),
which no entry holds, so that equal memories are equal lists (log 4). -/
def Memory.wf : Memory → Bool
  | [] => true
  | [_] => true
  | (a, _) :: (b, y) :: m => decide (a < b) && Memory.wf ((b, y) :: m)

/-- The byte written last at offset `a` since the last reset, `none` when there was none. -/
def Memory.read? : Memory → Nat → Option Byte
  | [], _ => none
  | (a', b) :: m, a => if a = a' then some b else Memory.read? m a

/-- Write one byte, keeping the offsets strictly rising. -/
def Memory.write : Memory → Nat → Byte → Memory
  | [], a, b => [(a, b)]
  | (a', b') :: m, a, b =>
    if a < a' then (a, b) :: (a', b') :: m
    else if a = a' then (a, b) :: m
    else (a', b') :: Memory.write m a b

/-- Write the bytes of a list from offset `a` on. -/
def Memory.writeList : Memory → Nat → List Byte → Memory
  | m, _, [] => m
  | m, a, b :: bs => Memory.writeList (Memory.write m a b) (a + 1) bs

/-- `MSG[a]` (R27): the byte written last, or the ANY_8 drawn for it at the last reset (R38; log 4). -/
def State.msgByte (s : State) (a : Nat) : Byte :=
  match Memory.read? s.msg a with
  | some b => b
  | none => Config.resetByte s.epoch a

/-- `MemRead(a, n) = MSG[a], ..., MSG[a+n-1]` (R75). -/
def State.memRead (s : State) (a : Nat) : Nat → List Byte
  | 0 => []
  | n + 1 => s.msgByte a :: State.memRead s (a + 1) n

/-- `MemWrite(a, n, v)`: `MSG[a+k] <- v[k]` for k = 0..n-1, with n the length of `v` (R75). -/
def State.memWrite (s : State) (a : Nat) (v : List Byte) : State :=
  { s with msg := Memory.writeList s.msg a v }

/-- Block `b` of MSG, `MemRead(16*b, 16)` (R27, R75). -/
def State.readBlock (s : State) (b : Nat) : Block := Block.ofFn fun k => s.msgByte (16 * b + k)

/-- `MemWrite(16*b, 16, v)` (R75). -/
def State.writeBlock (s : State) (b : Nat) (v : Block) : State := s.memWrite (16 * b) v.toList

/-- The word of MSG at offset `a`: `{MSG[a], MSG[a+1], MSG[a+2], MSG[a+3]}` (R73). -/
def State.msgWord (s : State) (a : Nat) : Word :=
  Col.toWord ⟨s.msgByte a, s.msgByte (a + 1), s.msgByte (a + 2), s.msgByte (a + 3)⟩

end Sys2Proof.Machine
end

