-- ==== Sys2Proof/Machine/Operands.lean ====
section
/-! DEFINITION. The operand forms: the host offset and the map of the window (20_memory.md R61, R62, R76;
30_encoding.md R102), and the checks of the operand OPA (R100). -/

namespace Sys2Proof.Machine

/-- What a word-aligned offset of the window names (R61). -/
inductive Reg where
  | id
  | param
  | cmd
  | status
  | len
  | outlen
  | inten
  | key (j : Fin 4)
  | state (j : Fin 4)
  | rk (j : Fin 44)
  /-- the message window, at byte offset `a = A - 0x1000` of MSG (R73) -/
  | msg (a : Nat)
  /-- RAZ/WI (R62) -/
  | unassigned
  deriving DecidableEq, Repr

/-- The registers below offset 0x020 (R61). -/
def lowReg : Nat → Reg
  | 0x000 => .id
  | 0x004 => .param
  | 0x008 => .cmd
  | 0x00C => .status
  | 0x010 => .len
  | 0x014 => .outlen
  | 0x018 => .inten
  | _ => .unassigned

/-- The window map (R61), for a word-aligned offset. -/
def regAt (p : Params) (off : Offset) : Reg :=
  let a := off.toNat
  if a < 0x020 then lowReg a
  else if _ : a < 0x030 then .key ⟨(a - 0x020) / 4, by omega⟩
  else if _ : a < 0x040 then .state ⟨(a - 0x030) / 4, by omega⟩
  else if a < 0x100 then .unassigned
  else if _ : a < 0x1B0 then .rk ⟨(a - 0x100) / 4, by omega⟩
  else if a < 0x1000 then .unassigned
  else if a - 0x1000 < p.msgBytes then .msg (a - 0x1000)
  else .unassigned

/-- `A[1:0] = 00` (R76). -/
def aligned (off : Offset) : Bool := off.extractLsb' 0 2 == 0

/-- All four byte enables set (R76, R78). -/
def fullWord (be : BitVec 4) : Bool := be == 0b1111

/-- A write to one of these is dropped while BUSY = 1 and sets OVR (R83). -/
def Reg.isProtected : Reg → Bool
  | .cmd | .key _ | .state _ | .len | .msg _ => true
  | .id | .param | .status | .outlen | .inten | .rk _ | .unassigned => false

/-- The symbolic offsets of R102. -/
def offsetId : Offset := 0x000
def offsetParam : Offset := 0x004
def offsetCmd : Offset := 0x008
def offsetStatus : Offset := 0x00C
def offsetLen : Offset := 0x010
def offsetOutlen : Offset := 0x014
def offsetInten : Offset := 0x018

/-- `KEY<j>` = 0x020 + 4j (R102). -/
def offsetKey (j : Fin 4) : Offset := BitVec.ofNat 13 (0x020 + 4 * j.val)

/-- `STATE<j>` = 0x030 + 4j (R102). -/
def offsetState (j : Fin 4) : Offset := BitVec.ofNat 13 (0x030 + 4 * j.val)

/-- `RK<j>` = 0x100 + 4j (R102). -/
def offsetRk (j : Fin 44) : Offset := BitVec.ofNat 13 (0x100 + 4 * j.val)

/-- `MSG+<n>` = 0x1000 + n (R102). R102 gives no range for `n`; where the sum is past 0x1FFF, the last
offset of the window (R60), the model has no offset and the line is refused (log 21, DESIGN CHOICE, safe). -/
def offsetMsg (n : Nat) : Option Offset :=
  if 0x1000 + n < 0x2000 then some (BitVec.ofNat 13 (0x1000 + n)) else none

/-- A block index that names a block of MSG (R100). -/
def blockInRange (p : Params) (b : Nat) : Bool := decide (b < p.msgBlocks)

/-- A round that names a round key (R100). -/
def roundInRange (r : Nat) : Bool := decide (r ≤ 10)

/-- A LEN that ECB_DECRYPT accepts: not 0, a multiple of 16, at most MSG_BYTES (R201). -/
def lengthLegal (p : Params) (len : BitVec 13) : Bool :=
  decide (len.toNat ≠ 0) && decide (len.toNat % 16 = 0) && decide (len.toNat ≤ p.msgBytes)

end Sys2Proof.Machine
end

