-- ==== Sys2Proof/Machine/Ops.lean ====
section
/-! DEFINITION. The shared operations: acceptance, completion, raising an error and returning from one,
the overrun, the key and the schedule, the bus response (30_encoding.md R95 to R98; 60_exceptions.md R245, R246). -/

namespace Sys2Proof.Machine

/-- Acceptance of a command word (R95). It does not decode the word. -/
def acceptCommand (d : Word) (s : State) : State :=
  { s with cmdl := d, busy := true, done := false, err := false, errcode := 0, phase := .exec }

/-- `Finish(e)` (R98): ERR and ERRCODE are written only when there is an error. -/
def finish (e : Option CmdError) (s : State) : State :=
  { s with
    busy := false
    done := true
    phase := .idle
    err := match e with
      | none => s.err
      | some _ => true
    errcode := match e with
      | none => s.errcode
      | some e => e.code }

/-- TAKING AN ERROR, `raise E` (R13, R98, R245): `Finish(E)` on a state that holds only the writes the
command's rule keeps. Nothing is saved, no mode changes, there is no vector. -/
def raise (e : CmdError) (s : State) : State := finish (some e) s

/-- RETURN FROM AN ERROR by the host, and the clearing of DONE and OVR: a write of `d` to STATUS (R66, R246).
The other return is acceptance of the next command (`acceptCommand`). -/
def clearStatus (d : Word) (s : State) : State :=
  { s with
    done := if d.getLsbD 1 then false else s.done
    err := if d.getLsbD 2 then false else s.err
    errcode := if d.getLsbD 2 then 0 else s.errcode
    ovr := if d.getLsbD 3 then false else s.ovr }

/-- A protected write dropped because BUSY = 1 (R83, R96). -/
def overrun (s : State) : State := { s with ovr := true }

/-- The key consumed or cleared: every byte 0, KWMASK 0 (R22, R23). -/
def clearKey (s : State) : State := { s with key := Block.zero, kwmask := 0 }

/-- `RKB[4j+b] <- w[j][b]` with `w = KeyExpansion(KEY)`, SV <- 1 (R131, R201). -/
def installSchedule (s : State) : State := { s with rk := keyExpansion s.key, sv := true }

/-- The schedule discarded: RKB 0, SV 0 (R133, R207). -/
def discardSchedule (s : State) : State := { s with rk := Schedule.zero, sv := false }

/-- STATE <- `v` (R26). -/
def setState (v : Block) (s : State) : State := { s with state := v }

/-- OUTLEN <- `n`, a length of at most 13 bits (R29). -/
def setOutlen (n : Nat) (s : State) : State := { s with outlen := BitVec.ofNat 13 n }

/-- The host gets its response (R77, R78; log 7). -/
def respond (r : Response) (s : State) : State := { s with resp := r }

/-- One free value is drawn (R14; log 3). -/
def countDraw (s : State) : State := { s with draws := s.draws + 1 }

/-- KWMASK with bit `j` set (R23). -/
def setKeyBit (m : BitVec 4) (j : Fin 4) : BitVec 4 := m ||| (1#4 <<< j.val)

/-- `rst` (70_reset_and_hazards.md R280, R281): every piece of the spec's state takes its reset value and each
byte of MSG is drawn anew. The parameters and the host's side are not the core's state (log 11). -/
def resetCore (s : State) : State :=
  { State.reset with
    params := s.params
    epoch := s.draws + 1
    draws := s.draws + 1
    resp := s.resp
    hostOps := s.hostOps
    turns := s.turns
    hostFailed := s.hostFailed }

end Sys2Proof.Machine
end

