-- ==== Sys2Proof/Machine/Bus.lean ====
section
/-! DEFINITION. The host's bus operations RD and WR, and the read and write rule of every register of the
window (20_memory.md R61 to R78, R82, R83). -/

namespace Sys2Proof.Machine

/-- ID reads a constant (R63). -/
def idWord : Word := 0xAE5D0107

/-- PARAM: MSG_BLOCKS in bits 8:0, PAD_POLICY in bit 16 (R64). -/
def paramWord (p : Params) : Word :=
  BitVec.ofNat 32 p.msgBlocks |||
    (match p.padPolicy with
     | .permissive => 0
     | .strict => 0x00010000)

/-- A value that reads ANY_32 while BUSY = 1 (R82); `any` is the free value. -/
def unlessBusy (s : State) (any value : Word) : Word := if s.busy then any else value

/-- `ReadReg(A)` (R62 to R73); `any` is the free value that R82 asks for. -/
def readReg (s : State) (any : Word) : Reg → Word
  | .id => idWord
  | .param => paramWord s.params
  | .cmd => 0
  | .status =>
    if s.busy then (statusWord s &&& ~~~statusFreeMask) ||| (any &&& statusFreeMask)
    else statusWord s
  | .len => s.len.zeroExtend 32
  | .outlen => unlessBusy s any (s.outlen.zeroExtend 32)
  | .inten => (BitVec.ofBool s.doneIe).zeroExtend 32
  | .key _ => 0
  | .state j => unlessBusy s any (s.state.col j).toWord
  | .rk j => unlessBusy s any (schedWord s.rk j).toWord
  | .msg a => unlessBusy s any (s.msgWord a)
  | .unassigned => 0

/-- The write rule of a register that takes the write (R62 to R73). -/
def writeRegIdle (r : Reg) (d : Word) (s : State) : State :=
  match r with
  | .id => s
  | .param => s
  | .cmd => acceptCommand d s
  | .status => clearStatus d s
  | .len => { s with len := d.extractLsb' 0 13 }
  | .outlen => s
  | .inten => { s with doneIe := d.getLsbD 0 }
  | .key j => { s with key := s.key.setCol j (Col.ofWord d), kwmask := setKeyBit s.kwmask j }
  | .state j => { s with state := s.state.setCol j (Col.ofWord d) }
  | .rk _ => s
  | .msg a => s.memWrite a (Col.ofWord d).toList
  | .unassigned => s

/-- `WriteReg(A, d)`: a protected write is dropped while BUSY = 1 (R83). -/
def writeReg (r : Reg) (d : Word) (s : State) : State :=
  if s.busy && r.isProtected then overrun s else writeRegIdle r d s

/-- RD A (R77): a bus error when `A[1:0] != 0` (R76), else the value of the register. One free value is
drawn for each access, used only where the spec says ANY_32 (log 3). -/
def execRd (off : Offset) (s : State) : Host.Outcome State Fault Refusal :=
  let any := Config.anyWord s.draws
  .next (respond
    (if aligned off then .readOk (readReg s any (regAt s.params off)) else .readErr any)
    (countDraw s))

/-- WR A, d (R78): a bus error when `A[1:0] != 0` or a byte enable is clear (R76), else the write rule of
the register. -/
def execWr (off : Offset) (data : Word) (be : BitVec 4) (s : State) :
    Host.Outcome State Fault Refusal :=
  .next (if aligned off && fullWord be then
      respond .writeOk (writeReg (regAt s.params off) data s)
    else respond .writeErr s)

end Sys2Proof.Machine
end

