-- ==== Sys2Proof/Machine/Control.lean ====
section
/-! DEFINITION. The commands of the key schedule family: NOP, KEY_EXPAND, KEY_CLEAR, SCHED_CLEAR
(40_key_schedule.md R130 to R133). -/

namespace Sys2Proof.Machine

/-- NOP (R130). -/
def execNop (s : State) : Host.Outcome State Fault Refusal :=
  .next (finish none s)

/-- KEY_EXPAND (R131): InvalidKeyLength unless all four key words have been written. -/
def execKeyExpand (s : State) : Host.Outcome State Fault Refusal :=
  .next (if s.kwmask ≠ 0b1111 then raise .invalidKeyLength s
    else finish none (clearKey (installSchedule s)))

/-- KEY_CLEAR (R132). -/
def execKeyClear (s : State) : Host.Outcome State Fault Refusal :=
  .next (finish none (clearKey s))

/-- SCHED_CLEAR (R133). -/
def execSchedClear (s : State) : Host.Outcome State Fault Refusal :=
  .next (finish none (discardSchedule s))

end Sys2Proof.Machine
end

