-- ==== Sys2Proof/Machine/Ecb.lean ====
section
/-! DEFINITION. The ECB decryption block sequencer: the three kinds of core step of ECB_DECRYPT
(42_ecb_sequencer.md R200 to R208). -/

namespace Sys2Proof.Machine

/-- The job started by a setup step that passed its checks (R201): schedule made, key consumed, every block
pending. BUSY stays 1. -/
def startJob (s : State) : State :=
  { clearKey (installSchedule s) with
    nblk := s.len.toNat / 16
    pending := List.range (s.len.toNat / 16)
    phase := .ecbBlocks }

/-- ECB_DECRYPT, its setup step (R201): OUTLEN <- 0 is written even if a raise follows; the length is
checked before the key (R244). -/
def execEcbDecrypt (s : State) : Host.Outcome State Fault Refusal :=
  .next (if !lengthLegal s.params s.len then raise .invalidInputLength (setOutlen 0 s)
    else if s.kwmask ≠ 0b1111 then raise .invalidKeyLength (setOutlen 0 s)
    else startJob (setOutlen 0 s))

/-- The member of a list of pending blocks that a free draw `n` picks; every member can be picked
(R202; log 5). -/
def pickBlock : List Nat → Nat → Nat
  | [b], _ => b
  | bs, n => bs.getD (n % bs.length) 0

/-- Block `b` decrypted in place and no longer pending; the last one leads to the finish step (R202).
Irreducible for the proofs only: its fields are read by the lemmas of Laws/State.lean. -/
@[irreducible] def blockDone (b : Nat) (s : State) : State :=
  { s with
    msg := (s.writeBlock b (invCipher (s.readBlock b) s.rk)).msg
    pending := s.pending.erase b
    phase := if (s.pending.erase b).isEmpty then .ecbFinish else .ecbBlocks }

/-- The block step (R202) on the block `b` chosen. -/
def decryptBlock (b : Nat) (s : State) : Host.Outcome State Fault Refusal :=
  if blockInRange s.params b then .next (blockDone b s) else .fault .outsideBuffer

/-- The block step (R202): a block still pending, chosen freely. -/
def ecbBlockStep (s : State) : Host.Outcome State Fault Refusal :=
  if s.pending.isEmpty then .fault .noPendingBlock
  else decryptBlock (pickBlock s.pending (Config.blockChoice s.draws)) (countDraw s)

/-- `Pkcs7Valid(m)` (R204), with `p` the last byte of `m`. -/
def pkcs7Valid (m : List Byte) : Bool :=
  let p := (m.getD (m.length - 1) 0).toNat
  decide (1 ≤ p) && decide (p ≤ 16) &&
    (List.range p).all fun k => (m.getD (m.length - p + k) 0).toNat == p

/-- The finish step (R203): the schedule is discarded whatever the padding outcome (R207); a failed check
ends as PAD_POLICY says (R205, R206). -/
def ecbFinishStep (s : State) : Host.Outcome State Fault Refusal :=
  let l := s.len.toNat
  let t := discardSchedule s
  if l < 16 ∨ s.params.msgBytes < l then .fault .outsideBuffer
  else if pkcs7Valid (s.memRead 0 l) then
    .next (finish none (setOutlen (l - (s.msgByte (l - 1)).toNat) t))
  else
    match s.params.padPolicy with
    | .permissive => .next (finish none (setOutlen l t))
    | .strict => .next (raise .invalidPadding (setOutlen 0 (t.memWrite 0 (List.replicate l 0))))

end Sys2Proof.Machine
end

