-- ==== Sys2Proof/Machine/Pipeline.lean ====
section
/-! DEFINITION. The commands of the inverse cipher pipeline family (41_inverse_cipher.md R170 to R176). -/

namespace Sys2Proof.Machine

/-- LOAD_STATE b (R170): BadOperand when `b >= MSG_BLOCKS`. -/
def execLoadState (b : Nat) (s : State) : Host.Outcome State Fault Refusal :=
  .next (if blockInRange s.params b then finish none (setState (s.readBlock b) s)
    else raise .badOperand s)

/-- STORE_STATE b (R171): BadOperand when `b >= MSG_BLOCKS`. -/
def execStoreState (b : Nat) (s : State) : Host.Outcome State Fault Refusal :=
  .next (if blockInRange s.params b then finish none (s.writeBlock b s.state)
    else raise .badOperand s)

/-- INV_SHIFT_ROWS (R172). -/
def execInvShiftRows (s : State) : Host.Outcome State Fault Refusal :=
  .next (finish none (setState (invShiftRowsF s.state) s))

/-- INV_SUB_BYTES (R173). -/
def execInvSubBytes (s : State) : Host.Outcome State Fault Refusal :=
  .next (finish none (setState (invSubBytesF s.state) s))

/-- INV_MIX_COLUMNS (R174). -/
def execInvMixColumns (s : State) : Host.Outcome State Fault Refusal :=
  .next (finish none (setState (invMixColumnsF s.state) s))

/-- ADD_ROUND_KEY r (R175): BadOperand when `r > 10`, checked first, then NoSchedule when SV = 0 (R244). -/
def execAddRoundKey (r : Nat) (s : State) : Host.Outcome State Fault Refusal :=
  .next (if !roundInRange r then raise .badOperand s
    else if !s.sv then raise .noSchedule s
    else finish none (setState (addRoundKeyF s.rk s.state r) s))

/-- DECRYPT_STATE (R176): NoSchedule when SV = 0. -/
def execDecryptState (s : State) : Host.Outcome State Fault Refusal :=
  .next (if !s.sv then raise .noSchedule s
    else finish none (setState (invCipher s.state s.rk) s))

end Sys2Proof.Machine
end

