-- ==== Sys2Proof/Machine/Dispatch.lean ====
section
/-! DEFINITION. One arm per instruction. -/

namespace Sys2Proof.Machine

def exec (i : Instr) (s : State) : Host.Outcome State Fault Refusal :=
  match i with
  | .nop => Sys2Proof.Machine.execNop s
  | .keyExpand => Sys2Proof.Machine.execKeyExpand s
  | .keyClear => Sys2Proof.Machine.execKeyClear s
  | .schedClear => Sys2Proof.Machine.execSchedClear s
  | .loadState b => Sys2Proof.Machine.execLoadState b s
  | .storeState b => Sys2Proof.Machine.execStoreState b s
  | .invShiftRows => Sys2Proof.Machine.execInvShiftRows s
  | .invSubBytes => Sys2Proof.Machine.execInvSubBytes s
  | .invMixColumns => Sys2Proof.Machine.execInvMixColumns s
  | .addRoundKey r => Sys2Proof.Machine.execAddRoundKey r s
  | .decryptState => Sys2Proof.Machine.execDecryptState s
  | .ecbDecrypt => Sys2Proof.Machine.execEcbDecrypt s
  | .rd off => Sys2Proof.Machine.execRd off s
  | .wr off data be => Sys2Proof.Machine.execWr off data be s

end Sys2Proof.Machine
end

