-- ==== Sys2Proof/WellFormed.lean ====
section
/-! DEFINITION. Which instructions an encoding or a bus access can carry (30_encoding.md R91, R103):
OPA is from 0 to 255. An offset, a data word and byte enables fit by their types. -/

namespace Sys2Proof

/-- `true` when every operand fits its field. -/
def Instr.wellFormed : Instr → Bool
  | .nop => true
  | .keyExpand => true
  | .keyClear => true
  | .schedClear => true
  | .loadState b => decide (b < 256)
  | .storeState b => decide (b < 256)
  | .invShiftRows => true
  | .invSubBytes => true
  | .invMixColumns => true
  | .addRoundKey r => decide (r < 256)
  | .decryptState => true
  | .ecbDecrypt => true
  | .rd _ => true
  | .wr _ _ _ => true

end Sys2Proof
end

