-- ==== Sys2Proof/Decode.lean ====
section
/-! DEFINITION. Decode and encode of the 32-bit command word: OP 7:0, OPA 15:8, RSV 31:16
(30_encoding.md R90 to R94, R103). -/

namespace Sys2Proof

/-- Why a word is no command (R94). The core finishes each of them with IllegalCommand (R97). -/
inductive Illegal where
  /-- RSV, bits 31:16, is not 0 -/
  | reservedBits
  /-- OP, bits 7:0, is not in the table of R92 -/
  | unassignedOpcode
  /-- OPA, bits 15:8, is not 0 for an opcode that takes no operand -/
  | operandNotZero
  deriving DecidableEq, Repr

/-- OP, bits 7:0 of a command word (R90). -/
def opField (w : Word) : Nat := (w.extractLsb' 0 8).toNat

/-- OPA, bits 15:8 of a command word, an unsigned 8-bit integer, not scaled (R90, R91). -/
def opaField (w : Word) : Nat := (w.extractLsb' 8 8).toNat

/-- RSV, bits 31:16 of a command word (R90). -/
def rsvField (w : Word) : BitVec 16 := w.extractLsb' 16 16

/-- An opcode that takes no operand: OPA must be 0 (R92, R93). -/
def withoutOperand (opa : Nat) (i : Instr) : Except Illegal Instr :=
  if opa = 0 then .ok i else .error .operandNotZero

/-- The cases of `Decode` on OP, for a word with RSV = 0 (R93). -/
def decodeFields (op opa : Nat) : Except Illegal Instr :=
  match op with
  | 0x00 => withoutOperand opa .nop
  | 0x01 => withoutOperand opa .keyExpand
  | 0x02 => withoutOperand opa .keyClear
  | 0x03 => withoutOperand opa .schedClear
  | 0x10 => .ok (.loadState opa)
  | 0x11 => .ok (.storeState opa)
  | 0x12 => withoutOperand opa .invShiftRows
  | 0x13 => withoutOperand opa .invSubBytes
  | 0x14 => withoutOperand opa .invMixColumns
  | 0x15 => .ok (.addRoundKey opa)
  | 0x16 => withoutOperand opa .decryptState
  | 0x20 => withoutOperand opa .ecbDecrypt
  | _ => .error .unassignedOpcode

/-- `Decode(word)` (R93): total, a command or the reason why the word is illegal. -/
def decode (w : Word) : Except Illegal Instr :=
  if rsvField w ≠ 0 then .error .reservedBits else decodeFields (opField w) (opaField w)

/-- `match(m) | (opa << 8)` (R103). -/
def commandWord (pattern : Word) (opa : Nat) : Word := pattern ||| (BitVec.ofNat 32 opa <<< 8)

/-- The command word of an instruction, from the match column of R92; a bus operation has none
(spec/opcode_table.json: "bus operation, no command word"; log 17). -/
def encode : Instr → Option Word
  | .nop => some (commandWord 0x00000000 0)
  | .keyExpand => some (commandWord 0x00000001 0)
  | .keyClear => some (commandWord 0x00000002 0)
  | .schedClear => some (commandWord 0x00000003 0)
  | .loadState b => some (commandWord 0x00000010 b)
  | .storeState b => some (commandWord 0x00000011 b)
  | .invShiftRows => some (commandWord 0x00000012 0)
  | .invSubBytes => some (commandWord 0x00000013 0)
  | .invMixColumns => some (commandWord 0x00000014 0)
  | .addRoundKey r => some (commandWord 0x00000015 r)
  | .decryptState => some (commandWord 0x00000016 0)
  | .ecbDecrypt => some (commandWord 0x00000020 0)
  | .rd _ => none
  | .wr _ _ _ => none

/-- A row of the match and mask table of R92. -/
structure TableRow where
  pattern : Word
  mask : Word
  deriving DecidableEq, Repr

/-- "A word matches a row when `(word & mask) = match`" (R92). -/
def TableRow.matches (r : TableRow) (w : Word) : Bool := w &&& r.mask == r.pattern

/-- The match and mask table of R92, row by row. -/
def opcodeTable : List TableRow :=
  [ ⟨0x00000000, 0xFFFFFFFF⟩,  -- NOP
    ⟨0x00000001, 0xFFFFFFFF⟩,  -- KEY_EXPAND
    ⟨0x00000002, 0xFFFFFFFF⟩,  -- KEY_CLEAR
    ⟨0x00000003, 0xFFFFFFFF⟩,  -- SCHED_CLEAR
    ⟨0x00000010, 0xFFFF00FF⟩,  -- LOAD_STATE
    ⟨0x00000011, 0xFFFF00FF⟩,  -- STORE_STATE
    ⟨0x00000012, 0xFFFFFFFF⟩,  -- INV_SHIFT_ROWS
    ⟨0x00000013, 0xFFFFFFFF⟩,  -- INV_SUB_BYTES
    ⟨0x00000014, 0xFFFFFFFF⟩,  -- INV_MIX_COLUMNS
    ⟨0x00000015, 0xFFFF00FF⟩,  -- ADD_ROUND_KEY
    ⟨0x00000016, 0xFFFFFFFF⟩,  -- DECRYPT_STATE
    ⟨0x00000020, 0xFFFFFFFF⟩ ] -- ECB_DECRYPT

/-- The instruction the decoder reads from the bits `w` of a table row of `nbits` bits. A command is
exactly one 32-bit word (R90), so bits above `nbits` are 0 and more than 32 bits are no command;
a row of 0 bits is a bus operation and no command word (log 17). -/
def decodeTableWord (nbits w : Nat) : Option Instr :=
  if nbits = 0 ∨ 32 < nbits then none
  else (decode (BitVec.ofNat 32 (w % 2 ^ nbits))).toOption

end Sys2Proof
end

