-- ==== Sys2Proof/Machine/HostProgram.lean ====
section
/-! DEFINITION. The lines of a host program and the expansions of the pseudo-instructions
(30_encoding.md R101 to R104). -/

namespace Sys2Proof.Machine

/-- `wr <off>, <value>`, all byte enables set (R101). -/
def lineWr (off : Offset) (value : Word) : HostLine := .wr off value 0b1111

/-- `cmd <MNEMONIC> <opa>` (R103): `none` where the assembler refuses the line, an operand out of 0..255.
A bus operation is no command. -/
def lineCmd (i : Instr) : Option HostLine :=
  if i.wellFormed then (encode i).map (lineWr offsetCmd) else none

/-- `key <hex32>` (R104). -/
def linesKey (k : Block) : List HostLine :=
  [lineWr (offsetKey 0) k.c0.toWord, lineWr (offsetKey 1) k.c1.toWord,
   lineWr (offsetKey 2) k.c2.toWord, lineWr (offsetKey 3) k.c3.toWord]

/-- `state <hex32>` (R104). -/
def linesState (v : Block) : List HostLine :=
  [lineWr (offsetState 0) v.c0.toWord, lineWr (offsetState 1) v.c1.toWord,
   lineWr (offsetState 2) v.c2.toWord, lineWr (offsetState 3) v.c3.toWord]

/-- `blk <b>, <hex32>` (R104). R104 gives no range for `b`; the line is refused, `none`, where an offset of
its expansion is past the window, that is for `b` above 255 (log 21, DESIGN CHOICE, safe). -/
def linesBlk (b : Nat) (v : Block) : Option (List HostLine) :=
  match offsetMsg (16 * b), offsetMsg (16 * b + 4), offsetMsg (16 * b + 8), offsetMsg (16 * b + 12) with
  | some o0, some o1, some o2, some o3 =>
    some [lineWr o0 v.c0.toWord, lineWr o1 v.c1.toWord, lineWr o2 v.c2.toWord, lineWr o3 v.c3.toWord]
  | _, _, _, _ => none

/-- `clr`: clears DONE, ERR, ERRCODE and OVR (R104). -/
def lineClr : HostLine := lineWr offsetStatus 0x0000000E

end Sys2Proof.Machine
end

