-- ==== Sys2Proof/Machine/Agents.lean ====
section
/-! DEFINITION. The steps of the two agents and their interleaving (10_state.md R19; 20_memory.md R79, R81;
30_encoding.md R97). -/

namespace Sys2Proof.Machine

/-- The core step (R97): the latched word decoded and performed, or the next step of an ECB job. -/
def coreStep (s : State) : Host.Outcome State Fault Refusal :=
  match s.phase with
  | .exec =>
    match decode s.cmdl with
    | .ok i => exec i s
    | .error _ => .next (raise .illegalCommand s)
  | .ecbBlocks => ecbBlockStep s
  | .ecbFinish => ecbFinishStep s
  | .idle => .fault .idleWhileBusy

/-- The value that a read gives the host: with an OK response the register's, with a bus error the ANY_32 that
comes with it (R77). -/
@[simp] def readValue : Response → Option Word
  | .readOk v => some v
  | .readErr v => some v
  | .none => none
  | .writeOk => none
  | .writeErr => none

/-- After a `wait` line's read of STATUS: the line again while bit 0 is 1 (R104). -/
def afterWait (s : State) : State :=
  match readValue s.resp with
  | some v => if v.getLsbD 0 then { s with hostOps := .wait :: s.hostOps } else s
  | none => s

/-- After an `expect` line's read: the program fails if the value read, whichever the response, is another
(R104, R77). That a failed program does no more is the model's (log 10). -/
def afterExpect (value : Word) (s : State) : State :=
  if readValue s.resp = some value then s else { s with hostOps := [], hostFailed := true }

/-- Continue with a next state; a fault or a refusal stays one. -/
def thenNext (o : Host.Outcome State Fault Refusal) (f : State → State) :
    Host.Outcome State Fault Refusal :=
  match o with
  | .next t => .next (f t)
  | .fault r => .fault r
  | .refused r => .refused r

/-- One step of the host (R77, R78, R101, R104), or of the environment (R280), for a line already taken
from the list. -/
def hostStep (l : HostLine) (s : State) : Host.Outcome State Fault Refusal :=
  match l with
  | .rd off => exec (.rd off) s
  | .wr off data be => exec (.wr off data be) s
  | .wait => thenNext (exec (.rd offsetStatus) s) afterWait
  | .expect off value => thenNext (exec (.rd off) s) (afterExpect value)
  | .rst => .next (resetCore s)

/-- The turns that the `n`-th free draw gives: some number of the host's, then one of the core's
(R81; 70_reset_and_hazards.md R289; log 2). -/
def drawnTurns (n : Nat) : List Agent := List.replicate (Config.hostTurns n) .host ++ [.core]

/-- The turns to come: the list `turns`, and at its end a free draw of more (log 2). -/
def turnsAhead (s : State) : List Agent :=
  match s.turns with
  | [] => drawnTurns s.draws
  | a :: ts => a :: ts

/-- Whose step it is when both agents have one: the first of the turns to come (R19, R81; log 2). -/
def agentChosen (s : State) : Agent := (turnsAhead s).headD .core

/-- The state in which an agent steps: one turn is taken, drawn first where `turns` is at its end (log 2). -/
def takeTurn (s : State) : State :=
  { s with
    turns := (turnsAhead s).tail
    draws := match s.turns with
      | [] => s.draws + 1
      | _ :: _ => s.draws }

/-- One step of the machine (R19, R81): the core has a step exactly when BUSY = 1 (R97), the host while its
list is not at its end; with neither, nothing happens (log 8). -/
def stepAgents (s : State) : Host.Outcome State Fault Refusal :=
  match s.busy, s.hostOps with
  | false, [] => .next s
  | true, [] => coreStep (takeTurn s)
  | false, l :: ls => hostStep l { takeTurn s with hostOps := ls }
  | true, l :: ls =>
    match agentChosen s with
    | .core => coreStep (takeTurn s)
    | .host => hostStep l { takeTurn s with hostOps := ls }

/-- The state in which the word `d` has just been accepted (R95) and the core is to step next (log 12). -/
def fetchWord (s : State) (d : Word) : State :=
  { acceptCommand d s with turns := .core :: s.turns }

end Sys2Proof.Machine
end

