-- ==== Sys2Proof/Machine/Step.lean ====
section
/-! DEFINITION. The step of the machine, and the placing of one command word. -/

namespace Sys2Proof.Machine

/-- One step (`stepAgents`). -/
def step (s : State) : Host.Outcome State Fault Refusal := stepAgents s

/-- The command word of `nbits` bits accepted, so that the very next step performs it (log 12). The core
fetches nothing: a word comes to run by a host write to CMD (20_memory.md R85; 30_encoding.md R95). -/
def State.withFetchWord (s : State) (nbits w : Nat) : State :=
  fetchWord s (BitVec.ofNat 32 (w % 2 ^ nbits))

end Sys2Proof.Machine
end

