-- ==== Sys2Proof/Safety.lean ====
section
/-! DEFINITION. What counts as a safe run, and the terms the statements use: the invariant of the machine,
runs of core steps, frames, and the forward cipher that 41_inverse_cipher.md R167 speaks of. -/

namespace Sys2Proof.Machine

/-- What every reachable state satisfies. -/
structure Invariant (s : State) : Prop where
  /-- MSG is in canonical form (`Memory.wf`) -/
  msgSorted : Memory.wf s.msg = true
  /-- nothing is written outside `MSG[0..MSG_BYTES-1]` (R27, R75) -/
  msgInside : ∀ c ∈ s.msg, c.1 < s.params.msgBytes
  /-- a key word not written since the key was consumed or cleared is 0 (R22, R23) -/
  keyUnwritten : ∀ j : Fin 4, s.kwmask.getLsbD j.val = false → s.key.col j.val = Col.zero
  /-- "SV = 0 implies every byte of RKB is 0x00" (R25) -/
  scheduleCleared : s.sv = false → s.rk = Schedule.zero
  /-- SV = 1 when "RK holds the output of a KeyExpansion that has not since been cleared" (R25) -/
  scheduleValid : s.sv = true → ∃ k, s.rk = keyExpansion k
  /-- "ERR = 1 if and only if ERRCODE ≠ 0" (R32) -/
  errCode : s.err = true ↔ s.errcode ≠ 0
  /-- codes 7 to 15 are "never reported" (R240) -/
  errRange : s.errcode.toNat ≤ 6
  /-- "BUSY = 1 implies DONE = 0 and ERR = 0" (R32) -/
  busyClean : s.busy = true → s.done = false ∧ s.err = false
  /-- "PHASE = IDLE if and only if BUSY = 0" (R34) -/
  idlePhase : s.phase = .idle ↔ s.busy = false
  /-- OUTLEN is the length of a plaintext in the buffer (R29) -/
  outlenInside : s.outlen.toNat ≤ s.params.msgBytes
  /-- NBLK blocks fit the buffer (R34, R201) -/
  nblkInside : s.nblk ≤ s.params.msgBlocks
  /-- PENDING is a set (R34): a strictly rising list -/
  pendingRising : s.pending.Pairwise (· < ·)
  /-- the blocks pending are blocks of the job (R201) -/
  pendingInside : ∀ b ∈ s.pending, b < s.nblk
  /-- blocks are pending exactly in PHASE = ECB_BLOCKS (R201, R202) -/
  pendingPhase : s.phase = .ecbBlocks ↔ s.pending ≠ []
  /-- what the setup step leaves for the rest of an ECB job (R201) -/
  ecbJob : s.phase = .ecbBlocks ∨ s.phase = .ecbFinish →
    0 < s.nblk ∧ s.len.toNat = 16 * s.nblk ∧ s.sv = true ∧ s.key = Block.zero ∧ s.kwmask = 0 ∧
      s.outlen = 0 ∧ s.cmdl = 0x00000020
  /-- the model's own counters: the last reset is not in the future (log 4) -/
  epochPast : s.epoch ≤ s.draws

/-- "A *run* … ends when … the host has performed its last line; BUSY = 0" (70_reset_and_hazards.md R291). -/
def runEnded (s : State) : Prop := s.hostOps = [] ∧ s.busy = false

/-- `n` core steps with no step of the host between them. -/
def coreRun : Nat → State → Host.Outcome State Fault Refusal
  | 0, s => .next s
  | n + 1, s =>
    match coreStep s with
    | .next t => coreRun n t
    | .fault r => .fault r
    | .refused r => .refused r

/-- `n` steps of the machine, whichever agent moves in each. -/
def stepRun : Nat → State → Host.Outcome State Fault Refusal
  | 0, s => .next s
  | n + 1, s =>
    match step s with
    | .next t => stepRun n t
    | .fault r => .fault r
    | .refused r => .refused r

/-- The next step of the machine is the core's: BUSY = 1 (R97), and the host has no line left or the turn is
the core's (R19, R81). -/
def coreMoves (s : State) : Prop := s.busy = true ∧ (s.hostOps = [] ∨ agentChosen s = .core)

/-- The block steps of R202 with the choices given: the blocks of the list in its order. -/
def runBlocks : List Nat → State → Host.Outcome State Fault Refusal
  | [], s => .next s
  | b :: bs, s =>
    match decryptBlock b s with
    | .next t => runBlocks bs t
    | .fault r => .fault r
    | .refused r => .refused r

/-- Commands issued one after the other, each accepted (R95) and performed before the next (R177). -/
def runCommands : List Instr → State → Host.Outcome State Fault Refusal
  | [], s => .next s
  | i :: is, s =>
    match encode i with
    | none => .next s
    | some w =>
      match coreStep (acceptCommand w s) with
      | .next t => runCommands is t
      | .fault r => .fault r
      | .refused r => .refused r

/-- The four stage commands of a round, for the rounds `r` down to 1 (R177). -/
def stageRounds : Nat → List Instr
  | 0 => []
  | r + 1 =>
    [.invShiftRows, .invSubBytes, .addRoundKey (r + 1), .invMixColumns] ++ stageRounds r

/-- The 40 stage commands of R177. -/
def stageCommands : List Instr :=
  [.addRoundKey 10] ++ stageRounds 9 ++ [.invShiftRows, .invSubBytes, .addRoundKey 0]

/-! Frames: what a step leaves unchanged. -/

/-- KEY and KWMASK are unchanged. -/
def sameKey (s t : State) : Prop := t.key = s.key ∧ t.kwmask = s.kwmask

/-- RKB and SV are unchanged. -/
def sameSchedule (s t : State) : Prop := t.rk = s.rk ∧ t.sv = s.sv

/-- Every byte of MSG reads as before. -/
def sameMsg (s t : State) : Prop := ∀ a, t.msgByte a = s.msgByte a

/-- The parameters and the model's own fields are unchanged. -/
def sameModel (s t : State) : Prop :=
  t.params = s.params ∧ t.epoch = s.epoch ∧ t.draws = s.draws ∧ t.resp = s.resp ∧
    t.hostOps = s.hostOps ∧ t.turns = s.turns ∧ t.hostFailed = s.hostFailed

/-- What no command changes, or only the setup step of ECB_DECRYPT: LEN, INTEN, OVR, CMDL, NBLK, PENDING, the
parameters and the model's own fields. -/
def sameRest (s t : State) : Prop :=
  t.len = s.len ∧ t.doneIe = s.doneIe ∧ t.ovr = s.ovr ∧ t.cmdl = s.cmdl ∧
    t.nblk = s.nblk ∧ t.pending = s.pending ∧ sameModel s t

/-- `Finish(none)`: BUSY 0, DONE 1, PHASE IDLE; ERR and ERRCODE as they were (R98). -/
def completesOk (s t : State) : Prop :=
  t.busy = false ∧ t.done = true ∧ t.phase = .idle ∧ t.err = s.err ∧ t.errcode = s.errcode

/-- `Finish(E)` with the code of E: BUSY 0, DONE 1, PHASE IDLE, ERR 1, ERRCODE the code (R98). -/
def completesWith (code : BitVec 4) (t : State) : Prop :=
  t.busy = false ∧ t.done = true ∧ t.phase = .idle ∧ t.err = true ∧ t.errcode = code

/-- A command that raises an error and keeps no other write, OUTLEN apart (R13, R241): only STATUS and the
job's PHASE change. -/
def raisesOnly (code : BitVec 4) (s t : State) : Prop :=
  completesWith code t ∧ sameKey s t ∧ sameSchedule s t ∧ t.state = s.state ∧ sameMsg s t ∧
    sameRest s t

/-- A read of the offset is answered OK with `v`, and nothing of the core or of the host's side changes but
the response and the count of draws (R77, R80). -/
def readAnswers (s : State) (off : Offset) (v : Word) : Prop :=
  ∃ t, exec (.rd off) s = .next t ∧ t = { s with resp := .readOk v, draws := s.draws + 1 } ∧
    sameMsg s t

/-- A full write to the offset is answered OK and leaves the state `u` (and the response). -/
def writeLeaves (s : State) (off : Offset) (d : Word) (u : State) : Prop :=
  exec (.wr off d 0b1111) s = .next { u with resp := .writeOk }

/-- A full write to the offset is dropped: the response is OK and only OVR changes (R83). -/
def writeDropped (s : State) (off : Offset) (d : Word) : Prop :=
  writeLeaves s off d { s with ovr := true }

/-- The plaintext byte at offset `a` of an ECB job that starts in `s`: byte `a mod 16` of
`InvCipher(C[16b..16b+15], KeyExpansion(K))` with `b = a div 16` (R210). -/
def plainByte (s : State) (a : Nat) : Byte :=
  (invCipher (s.readBlock (a / 16)) (keyExpansion s.key)).byte (a % 16)

/-- `Pkcs7Valid` of a text of `l` bytes given by its bytes (R204). -/
def padValid (m : Nat → Byte) (l : Nat) : Prop :=
  1 ≤ (m (l - 1)).toNat ∧ (m (l - 1)).toNat ≤ 16 ∧
    ∀ k < (m (l - 1)).toNat, m (l - (m (l - 1)).toNat + k) = m (l - 1)

/-! The forward cipher (R167; 93_implementation_defined.md G6): no part of the hardware, only the subject of
the round-trip statement (log 18). -/

/-- SubBytes. -/
def subBytesF (s : Block) : Block := Block.ofFn fun i => sbox (s.byte i)

/-- ShiftRows: row `r` shifted left by `r` positions. -/
def shiftRowsF (s : Block) : Block := Block.ofFn fun i => s.byte (4 * ((i / 4 + i % 4) % 4) + i % 4)

/-- One column of MixColumns, matrix [02 03 01 01] rotated one place per row. -/
def mixColumn (a : Col) : Col :=
  ⟨gmul 0x02 a.b0 ^^^ gmul 0x03 a.b1 ^^^ gmul 0x01 a.b2 ^^^ gmul 0x01 a.b3,
   gmul 0x01 a.b0 ^^^ gmul 0x02 a.b1 ^^^ gmul 0x03 a.b2 ^^^ gmul 0x01 a.b3,
   gmul 0x01 a.b0 ^^^ gmul 0x01 a.b1 ^^^ gmul 0x02 a.b2 ^^^ gmul 0x03 a.b3,
   gmul 0x03 a.b0 ^^^ gmul 0x01 a.b1 ^^^ gmul 0x01 a.b2 ^^^ gmul 0x02 a.b3⟩

/-- MixColumns. -/
def mixColumnsF (s : Block) : Block := ⟨mixColumn s.c0, mixColumn s.c1, mixColumn s.c2, mixColumn s.c3⟩

/-- The rounds 1 to `n`: SubBytes, ShiftRows, MixColumns, AddRoundKey. -/
def forwardRounds (rk : Schedule) : Nat → Block → Block
  | 0, s => s
  | n + 1, s => addRoundKeyF rk (mixColumnsF (shiftRowsF (subBytesF (forwardRounds rk n s)))) (n + 1)

/-- `Cipher(P, RKB)`: AddRoundKey 0, rounds 1 to 9, and a final round without MixColumns. -/
def forwardCipher (p : Block) (rk : Schedule) : Block :=
  addRoundKeyF rk (shiftRowsF (subBytesF (forwardRounds rk 9 (addRoundKeyF rk p 0)))) 10

end Sys2Proof.Machine
end

