-- ==== Sys2Proof/Certificates/Slice0/Obligations.lean ====
section
/-! DEFINITION. The statements for the provers, family by family. Frames are said in the terms of
Sys2Proof/Safety.lean; a statement that rests on a choice of the model names its log entry. -/

open Sys2Proof Sys2Proof.Machine

/-! ### Encoding -/

/-- Decode gives back every well-formed command from its word; only the bus operations have no word
(30_encoding.md R92, R93, R103). -/
def Obligations.DecodeOfEncodeIsTheInstruction : Prop :=
  ∀ i : Instr, i.wellFormed = true →
    match encode i with
    | some w => decode w = .ok i
    | none => (∃ off, i = .rd off) ∨ ∃ off d be, i = .wr off d be

/-- A word that decodes is the encoding of its instruction, so no two words decode alike (R92, R93). -/
def Obligations.EncodeOfDecodeIsTheWord : Prop :=
  ∀ (w : Word) (i : Instr), decode w = .ok i → i.wellFormed = true ∧ encode i = some w

/-- "Decode returns a command exactly when some row of rule R92 matches the word" (R93), and "at most one
row matches any word" (R92). -/
def Obligations.DecodeAcceptsExactlyTheTableRows : Prop :=
  ∀ w : Word,
    ((∃ i, decode w = .ok i) ↔ ∃ r ∈ opcodeTable, r.matches w = true) ∧
    ∀ r ∈ opcodeTable, ∀ q ∈ opcodeTable, r.matches w = true → q.matches w = true → r = q

/-- Words of 95_test_vectors.md section 3.5. -/
def Obligations.WrittenOutWordsDecode : Prop :=
  decode 0x00000001 = .ok .keyExpand ∧ decode 0x00000310 = .ok (.loadState 3) ∧
  decode 0x00000A15 = .ok (.addRoundKey 10) ∧ decode 0x00000020 = .ok .ecbDecrypt ∧
  decode 0x00000120 = .error .operandNotZero ∧ decode 0x00010013 = .error .reservedBits ∧
  decode 0x00000017 = .error .unassignedOpcode

/-! ### The step -/

/-- While BUSY = 1 a step that is the core's is the core step (R97), in every PHASE, in the state in which the
turn has been taken (log 2); in PHASE = EXEC it performs the instruction that the latched word decodes to. -/
def Obligations.StepPerformsTheLatchedCommand : Prop :=
  ∀ s : State, s.busy = true → (s.hostOps = [] ∨ agentChosen s = .core) →
    step s = coreStep (takeTurn s) ∧
    takeTurn s = { s with
      turns := (turnsAhead s).tail
      draws := if s.turns = [] then s.draws + 1 else s.draws } ∧
    ∀ i, s.phase = .exec → decode s.cmdl = .ok i → step s = exec i (takeTurn s)

/-- A latched word that matches no row of R92 finishes with IllegalCommand, code 4, and has no other
effect (R94, R97). -/
def Obligations.IllegalWordRaisesIllegalCommand : Prop :=
  ∀ s : State, s.busy = true → s.phase = .exec →
    (∀ r ∈ opcodeTable, r.matches s.cmdl = false) →
    (s.hostOps = [] ∨ agentChosen s = .core) →
    step s = .next { takeTurn s with
      busy := false, done := true, err := true, errcode := 4, phase := .idle }

/-- A step of the host performs the first line of its list; a line `rd` or `wr` is that bus operation
(R77, R78, R101). The list is the model's (log 1). -/
def Obligations.StepPerformsTheHostLine : Prop :=
  ∀ (s : State) (l : HostLine) (ls : List HostLine), s.hostOps = l :: ls →
    (s.busy = false ∨ agentChosen s = .host) →
    step s = hostStep l { takeTurn s with hostOps := ls } ∧
    (∀ off, l = .rd off → step s = exec (.rd off) { takeTurn s with hostOps := ls }) ∧
    (∀ off d be, l = .wr off d be →
      step s = exec (.wr off d be) { takeTurn s with hostOps := ls })

/-- While both agents have a step, either may be the next (R81). `turns` is the model's (log 2). -/
def Obligations.EitherAgentMayStepNext : Prop :=
  ∀ (s : State) (l : HostLine) (ls : List HostLine) (ts : List Agent),
    s.busy = true → s.hostOps = l :: ls →
    step { s with turns := .core :: ts } = coreStep { s with turns := ts } ∧
    step { s with turns := .host :: ts } = hostStep l { s with turns := ts, hostOps := ls }

/-- `wait` repeats its line while the core is busy and is done when it is not; the core does not change
(R104). -/
def Obligations.WaitRepeatsWhileBusy : Prop :=
  ∀ s : State, ∃ t r, hostStep .wait s = .next t ∧
    t = { s with
      resp := r
      draws := s.draws + 1
      hostOps := if s.busy then .wait :: s.hostOps else s.hostOps }

/-- The weak fairness of the core and what follows from it (R289): from every state in which a command runs the
core takes the job's next step after some number of steps of the host, unless a reset comes first; BUSY = 0
after some number of steps; and a `wait` ends (R104). That the turns to come are always some number of the
host's and then one of the core's is the model's form of the assumption (log 2, log 13). -/
def Obligations.CoreMovesAndWaitEnds : Prop :=
  ∀ s : State, Invariant s →
    (s.busy = true → ∃ n t, stepRun n s = .next t ∧ t.busy = true ∧ t.phase = s.phase ∧
      t.pending = s.pending ∧ t.cmdl = s.cmdl ∧
      (coreMoves t ∨ ∃ ls, t.hostOps = .rst :: ls)) ∧
    (s.busy = true → ∃ n t, stepRun n s = .next t ∧ t.busy = false) ∧
    ∀ ls, s.hostOps = .wait :: ls →
      ∃ n t, stepRun n s = .next t ∧ t.busy = false ∧ t.hostOps = ls

/-- Every run ends (R289, R291): from every state of the invariant, whatever the host's lines (log 1) and
whatever the interleaving (log 2), the host comes to the end of its list with BUSY = 0. -/
def Obligations.EveryRunEnds : Prop :=
  ∀ s : State, Invariant s → ∃ n t, stepRun n s = .next t ∧ runEnded t ∧ Invariant t

/-! ### Key schedule family -/

/-- NOP (R130). -/
def Obligations.NopOnlyCompletes : Prop :=
  encode .nop = some 0x00000000 ∧
  ∀ s : State, ∃ t, exec .nop s = .next t ∧ completesOk s t ∧ sameKey s t ∧ sameSchedule s t ∧
    t.state = s.state ∧ sameMsg s t ∧ t.outlen = s.outlen ∧ sameRest s t

/-- KEY_EXPAND (R131): with all four key words written it leaves the words of `KeyExpansion(KEY)`, said by
their own recurrence (R127) with RotWord and SubWord written out (R125, R126), and the key is consumed; with one missing it raises InvalidKeyLength, code 2,
and nothing is written. -/
def Obligations.KeyExpandDerivesTheSchedule : Prop :=
  encode .keyExpand = some 0x00000001 ∧
  ∀ s : State,
    (s.kwmask = 0b1111 → ∃ t, exec .keyExpand s = .next t ∧
      (∀ j < 4, schedWord t.rk j = s.key.col j) ∧
      (∀ i, 4 ≤ i → i < 44 → i % 4 ≠ 0 →
        schedWord t.rk i = Col.xor (schedWord t.rk (i - 4)) (schedWord t.rk (i - 1))) ∧
      (∀ i, 4 ≤ i → i < 44 → i % 4 = 0 →
        schedWord t.rk i = Col.xor (schedWord t.rk (i - 4))
          ⟨sbox (schedWord t.rk (i - 1)).b1 ^^^ rcon (i / 4), sbox (schedWord t.rk (i - 1)).b2,
            sbox (schedWord t.rk (i - 1)).b3, sbox (schedWord t.rk (i - 1)).b0⟩) ∧
      rcon 1 = 0x01 ∧ (∀ r, 1 ≤ r → r ≤ 9 → rcon (r + 1) = xtime (rcon r)) ∧
      t.sv = true ∧ t.key = Block.zero ∧ t.kwmask = 0 ∧ completesOk s t ∧
      t.state = s.state ∧ sameMsg s t ∧ t.outlen = s.outlen ∧ sameRest s t) ∧
    (s.kwmask ≠ 0b1111 → ∃ t, exec .keyExpand s = .next t ∧ raisesOnly 2 s t ∧
      t.outlen = s.outlen)

/-- KEY_CLEAR (R132). -/
def Obligations.KeyClearDiscardsTheKey : Prop :=
  encode .keyClear = some 0x00000002 ∧
  ∀ s : State, ∃ t, exec .keyClear s = .next t ∧ t.key = Block.zero ∧ t.kwmask = 0 ∧
    completesOk s t ∧ sameSchedule s t ∧ t.state = s.state ∧ sameMsg s t ∧ t.outlen = s.outlen ∧
    sameRest s t

/-- SCHED_CLEAR (R133): after it ADD_ROUND_KEY and DECRYPT_STATE raise NoSchedule, code 5. -/
def Obligations.SchedClearDiscardsTheSchedule : Prop :=
  encode .schedClear = some 0x00000003 ∧
  ∀ s : State, ∃ t, exec .schedClear s = .next t ∧ (∀ k < 176, rkByte t.rk k = 0) ∧
    t.sv = false ∧ completesOk s t ∧ sameKey s t ∧ t.state = s.state ∧ sameMsg s t ∧
    t.outlen = s.outlen ∧ sameRest s t ∧
    (∀ r ≤ 10, ∃ u, exec (.addRoundKey r) t = .next u ∧ raisesOnly 5 t u ∧
      u.outlen = t.outlen) ∧
    ∃ u, exec .decryptState t = .next u ∧ raisesOnly 5 t u ∧ u.outlen = t.outlen

/-! ### Pipeline family -/

/-- LOAD_STATE b (R170): the sixteen bytes of the block, or BadOperand, code 6, past the last block. -/
def Obligations.LoadStateCopiesTheBlock : Prop :=
  ∀ (s : State) (b : Nat),
    encode (.loadState b) = some (0x00000010 ||| BitVec.ofNat 32 b <<< 8) ∧
    (b < s.params.msgBlocks → ∃ t, exec (.loadState b) s = .next t ∧
      (∀ k < 16, t.state.byte k = s.msgByte (16 * b + k)) ∧ completesOk s t ∧ sameKey s t ∧
      sameSchedule s t ∧ sameMsg s t ∧ t.outlen = s.outlen ∧ sameRest s t) ∧
    (s.params.msgBlocks ≤ b → ∃ t, exec (.loadState b) s = .next t ∧ raisesOnly 6 s t ∧
      t.outlen = s.outlen)

/-- STORE_STATE b (R171): the sixteen bytes from `16 * b` on and no other byte, or BadOperand, code 6, past
the last block. -/
def Obligations.StoreStateWritesTheBlock : Prop :=
  ∀ (s : State) (b : Nat),
    encode (.storeState b) = some (0x00000011 ||| BitVec.ofNat 32 b <<< 8) ∧
    (b < s.params.msgBlocks → ∃ t, exec (.storeState b) s = .next t ∧
      (∀ a, t.msgByte a =
        if 16 * b ≤ a ∧ a < 16 * b + 16 then s.state.byte (a - 16 * b) else s.msgByte a) ∧
      completesOk s t ∧ sameKey s t ∧ sameSchedule s t ∧ t.state = s.state ∧
      t.outlen = s.outlen ∧ sameRest s t) ∧
    (s.params.msgBlocks ≤ b → ∃ t, exec (.storeState b) s = .next t ∧ raisesOnly 6 s t ∧
      t.outlen = s.outlen)

/-- INV_SHIFT_ROWS (R161, R172): `t[r, (c + r) mod 4] = s[r, c]`. -/
def Obligations.InvShiftRowsShiftsEachRow : Prop :=
  encode .invShiftRows = some 0x00000012 ∧
  ∀ s : State, ∃ t, exec .invShiftRows s = .next t ∧
    (∀ r < 4, ∀ c < 4, t.state.byte (4 * ((c + r) % 4) + r) = s.state.byte (4 * c + r)) ∧
    completesOk s t ∧ sameKey s t ∧ sameSchedule s t ∧ sameMsg s t ∧ t.outlen = s.outlen ∧
    sameRest s t

/-- INV_SUB_BYTES (R162, R173): `t[i] = INVSBOX[s[i]]`, with INVSBOX the inverse of SBOX (R160). -/
def Obligations.InvSubBytesSubstitutesEachByte : Prop :=
  encode .invSubBytes = some 0x00000013 ∧
  ∀ s : State, ∃ t, exec .invSubBytes s = .next t ∧
    (∀ i < 16, t.state.byte i = invSbox (s.state.byte i) ∧ sbox (t.state.byte i) = s.state.byte i) ∧
    completesOk s t ∧ sameKey s t ∧ sameSchedule s t ∧ sameMsg s t ∧ t.outlen = s.outlen ∧
    sameRest s t

/-- INV_MIX_COLUMNS (R163, R174): the fixed matrix over GF(2^8), column by column. -/
def Obligations.InvMixColumnsMultipliesEachColumn : Prop :=
  encode .invMixColumns = some 0x00000014 ∧
  ∀ s : State, ∃ t, exec .invMixColumns s = .next t ∧
    (∀ c < 4, ∀ a0 a1 a2 a3 : Byte,
      a0 = s.state.byte (4 * c) → a1 = s.state.byte (4 * c + 1) →
      a2 = s.state.byte (4 * c + 2) → a3 = s.state.byte (4 * c + 3) →
      t.state.byte (4 * c) =
        gmul 0x0E a0 ^^^ gmul 0x0B a1 ^^^ gmul 0x0D a2 ^^^ gmul 0x09 a3 ∧
      t.state.byte (4 * c + 1) =
        gmul 0x09 a0 ^^^ gmul 0x0E a1 ^^^ gmul 0x0B a2 ^^^ gmul 0x0D a3 ∧
      t.state.byte (4 * c + 2) =
        gmul 0x0D a0 ^^^ gmul 0x09 a1 ^^^ gmul 0x0E a2 ^^^ gmul 0x0B a3 ∧
      t.state.byte (4 * c + 3) =
        gmul 0x0B a0 ^^^ gmul 0x0D a1 ^^^ gmul 0x09 a2 ^^^ gmul 0x0E a3) ∧
    completesOk s t ∧ sameKey s t ∧ sameSchedule s t ∧ sameMsg s t ∧ t.outlen = s.outlen ∧
    sameRest s t

/-- ADD_ROUND_KEY r (R164, R175): the state xor round key `r`; `r > 10` raises BadOperand, code 6, whatever SV
is; else SV = 0 raises NoSchedule, code 5. -/
def Obligations.AddRoundKeyXorsTheRoundKey : Prop :=
  ∀ (s : State) (r : Nat),
    encode (.addRoundKey r) = some (0x00000015 ||| BitVec.ofNat 32 r <<< 8) ∧
    (r ≤ 10 → s.sv = true → ∃ t, exec (.addRoundKey r) s = .next t ∧
      (∀ i < 16,
        t.state.byte i = s.state.byte i ^^^ (schedWord s.rk (4 * r + i / 4)).byte (i % 4)) ∧
      completesOk s t ∧ sameKey s t ∧ sameSchedule s t ∧ sameMsg s t ∧ t.outlen = s.outlen ∧
      sameRest s t) ∧
    (10 < r → ∃ t, exec (.addRoundKey r) s = .next t ∧ raisesOnly 6 s t ∧
      t.outlen = s.outlen) ∧
    (r ≤ 10 → s.sv = false → ∃ t, exec (.addRoundKey r) s = .next t ∧ raisesOnly 5 s t ∧
      t.outlen = s.outlen)

/-- DECRYPT_STATE (R176): STATE becomes `InvCipher(STATE, RKB)` (R165); SV = 0 raises NoSchedule, code 5. -/
def Obligations.DecryptStateAppliesTheInverseCipher : Prop :=
  encode .decryptState = some 0x00000016 ∧
  ∀ s : State,
    (s.sv = true → ∃ t, exec .decryptState s = .next t ∧
      t.state = invCipher s.state s.rk ∧ completesOk s t ∧ sameKey s t ∧ sameSchedule s t ∧
      sameMsg s t ∧ t.outlen = s.outlen ∧ sameRest s t) ∧
    (s.sv = false → ∃ t, exec .decryptState s = .next t ∧ raisesOnly 5 s t ∧
      t.outlen = s.outlen)

/-- "From the same start state with SV = 1, two command sequences leave the same STATE": DECRYPT_STATE, and
the 40 stage commands (R177, the spec's own inference). -/
def Obligations.StageCommandsComposeToDecryptState : Prop :=
  stageCommands.length = 40 ∧
  ∀ s : State, s.sv = true →
    ∃ t u, runCommands [.decryptState] s = .next t ∧ runCommands stageCommands s = .next u ∧
      t.state = u.state

/-! ### ECB sequencer -/

/-- ECB_DECRYPT, its setup step (R201): with a legal LEN and the whole key the job starts; else the errors in
their order (R244): InvalidInputLength, code 1, whatever the key is, then InvalidKeyLength, code 2. OUTLEN is
0 in every case. -/
def Obligations.EcbSetupStartsTheJob : Prop :=
  encode .ecbDecrypt = some 0x00000020 ∧
  ∀ s : State,
    (s.len.toNat ≠ 0 → s.len.toNat % 16 = 0 → s.len.toNat ≤ s.params.msgBytes →
      s.kwmask = 0b1111 → ∃ t, exec .ecbDecrypt s = .next t ∧
      t.outlen = 0 ∧ t.rk = keyExpansion s.key ∧ t.sv = true ∧ t.key = Block.zero ∧
      t.kwmask = 0 ∧ t.nblk = s.len.toNat / 16 ∧
      (∀ b, b ∈ t.pending ↔ b < s.len.toNat / 16) ∧ t.pending.Nodup ∧
      t.phase = .ecbBlocks ∧ t.busy = s.busy ∧ t.done = s.done ∧ t.err = s.err ∧
      t.errcode = s.errcode ∧ t.ovr = s.ovr ∧ t.state = s.state ∧ sameMsg s t ∧ t.len = s.len ∧
      t.doneIe = s.doneIe ∧ t.cmdl = s.cmdl ∧ sameModel s t) ∧
    ((s.len.toNat = 0 ∨ s.len.toNat % 16 ≠ 0 ∨ s.params.msgBytes < s.len.toNat) →
      ∃ t, exec .ecbDecrypt s = .next t ∧ raisesOnly 1 s t ∧ t.outlen = 0) ∧
    (s.len.toNat ≠ 0 → s.len.toNat % 16 = 0 → s.len.toNat ≤ s.params.msgBytes →
      s.kwmask ≠ 0b1111 →
      ∃ t, exec .ecbDecrypt s = .next t ∧ raisesOnly 2 s t ∧ t.outlen = 0)

/-- The block step (R202): one block still pending is decrypted in place and no other byte changes. Which one
it is, `pickBlock` of a free value, under which any block pending can be the one, is the model's (log 5). -/
def Obligations.EcbBlockStepDecryptsOnePendingBlock : Prop :=
  ∀ s : State, s.phase = .ecbBlocks → s.pending ≠ [] → s.pending.Nodup →
    (∀ b ∈ s.pending, b < s.params.msgBlocks) →
    (∃ b ∈ s.pending, b = pickBlock s.pending (Config.blockChoice s.draws) ∧
      ∃ t, coreStep s = .next t ∧
      (∀ a, t.msgByte a =
        if a / 16 = b then (invCipher (s.readBlock b) s.rk).byte (a % 16) else s.msgByte a) ∧
      (∀ x, x ∈ t.pending ↔ x ∈ s.pending ∧ x ≠ b) ∧
      (t.pending = [] → t.phase = .ecbFinish) ∧ (t.pending ≠ [] → t.phase = .ecbBlocks) ∧
      sameKey s t ∧ sameSchedule s t ∧ t.state = s.state ∧ t.len = s.len ∧ t.outlen = s.outlen ∧
      t.doneIe = s.doneIe ∧ t.busy = s.busy ∧ t.done = s.done ∧ t.err = s.err ∧ t.ovr = s.ovr ∧
      t.errcode = s.errcode ∧ t.cmdl = s.cmdl ∧ t.nblk = s.nblk ∧ t.params = s.params) ∧
    ∀ b ∈ s.pending, ∃ n, pickBlock s.pending n = b

/-- The finish step (R203 to R208): the schedule is discarded in every case; a valid pad is cut off; otherwise
PAD_POLICY decides. -/
def Obligations.EcbFinishStepRemovesThePad : Prop :=
  ∀ s : State, s.phase = .ecbFinish → 16 ≤ s.len.toNat → s.len.toNat ≤ s.params.msgBytes →
    ∃ t, coreStep s = .next t ∧ t.rk = Schedule.zero ∧ t.sv = false ∧ sameKey s t ∧
      t.state = s.state ∧ sameRest s t ∧
      (padValid s.msgByte s.len.toNat →
        t.outlen.toNat = s.len.toNat - (s.msgByte (s.len.toNat - 1)).toNat ∧ completesOk s t ∧
        sameMsg s t) ∧
      (¬ padValid s.msgByte s.len.toNat → s.params.padPolicy = .permissive →
        t.outlen = s.len ∧ completesOk s t ∧ sameMsg s t) ∧
      (¬ padValid s.msgByte s.len.toNat → s.params.padPolicy = .strict →
        t.outlen = 0 ∧ completesWith 3 t ∧
        ∀ a, t.msgByte a = if a < s.len.toNat then 0 else s.msgByte a)

/-- Every order of the block steps leaves the same state (the spec's inference R209): equal as data, MSG in canonical form
included. -/
def Obligations.EcbBlockOrderDoesNotMatter : Prop :=
  ∀ (s : State) (first second : List Nat), Memory.wf s.msg = true → s.pending.Nodup →
    (∀ b ∈ s.pending, b < s.params.msgBlocks) → first.Perm s.pending → second.Perm s.pending →
    ∃ t, runBlocks first s = .next t ∧ runBlocks second s = .next t

/-- The functional summary of R210, the spec's own inference: a whole ECB_DECRYPT from its acceptance, by the rows of its table. -/
def Obligations.EcbJobResult : Prop :=
  ∀ s : State,
    ((s.len.toNat = 0 ∨ s.len.toNat % 16 ≠ 0 ∨ s.params.msgBytes < s.len.toNat) →
      ∃ t, coreRun 1 (acceptCommand 0x00000020 s) = .next t ∧ completesWith 1 t ∧ sameMsg s t ∧
        t.outlen = 0 ∧ sameKey s t ∧ sameSchedule s t ∧ t.state = s.state ∧ t.len = s.len ∧
        t.doneIe = s.doneIe) ∧
    (s.len.toNat ≠ 0 → s.len.toNat % 16 = 0 → s.len.toNat ≤ s.params.msgBytes →
      s.kwmask ≠ 0b1111 →
      ∃ t, coreRun 1 (acceptCommand 0x00000020 s) = .next t ∧ completesWith 2 t ∧ sameMsg s t ∧
        t.outlen = 0 ∧ sameKey s t ∧ sameSchedule s t ∧ t.state = s.state ∧ t.len = s.len ∧
        t.doneIe = s.doneIe) ∧
    (s.len.toNat ≠ 0 → s.len.toNat % 16 = 0 → s.len.toNat ≤ s.params.msgBytes →
      s.kwmask = 0b1111 →
      ∃ t, coreRun (s.len.toNat / 16 + 2) (acceptCommand 0x00000020 s) = .next t ∧
        t.busy = false ∧ t.done = true ∧ t.phase = .idle ∧
        t.key = Block.zero ∧ t.kwmask = 0 ∧ t.rk = Schedule.zero ∧ t.sv = false ∧
        t.state = s.state ∧ t.len = s.len ∧ t.doneIe = s.doneIe ∧
        (∀ a, s.len.toNat ≤ a → t.msgByte a = s.msgByte a) ∧
        (padValid (plainByte s) s.len.toNat →
          t.err = false ∧ t.errcode = 0 ∧ (∀ a < s.len.toNat, t.msgByte a = plainByte s a) ∧
          t.outlen.toNat = s.len.toNat - (plainByte s (s.len.toNat - 1)).toNat) ∧
        (¬ padValid (plainByte s) s.len.toNat → s.params.padPolicy = .permissive →
          t.err = false ∧ t.errcode = 0 ∧ (∀ a < s.len.toNat, t.msgByte a = plainByte s a) ∧
          t.outlen = s.len) ∧
        (¬ padValid (plainByte s) s.len.toNat → s.params.padPolicy = .strict →
          t.err = true ∧ t.errcode = 3 ∧ (∀ a < s.len.toNat, t.msgByte a = 0) ∧ t.outlen = 0))

/-- "Two ciphertext blocks with equal contents in one job decrypt to equal plaintext blocks" (R211,
the spec's own inference). -/
def Obligations.EqualBlocksDecryptToEqualBlocks : Prop :=
  ∀ (s : State) (b c : Nat), s.len.toNat ≠ 0 → s.len.toNat % 16 = 0 →
    s.len.toNat ≤ s.params.msgBytes → s.kwmask = 0b1111 →
    b < s.len.toNat / 16 → c < s.len.toNat / 16 → s.readBlock b = s.readBlock c →
    ∃ t, coreRun (s.len.toNat / 16 + 1) (acceptCommand 0x00000020 s) = .next t ∧
      t.phase = .ecbFinish ∧ t.readBlock b = t.readBlock c

/-- Every accepted command completes after at most NBLK + 2 core steps (R97, R289), from any state of the
invariant in which a command runs. -/
def Obligations.EveryCommandCompletes : Prop :=
  ∀ s : State, Invariant s → s.busy = true →
    ∃ n t, n ≤ s.len.toNat / 16 + 2 ∧ coreRun n s = .next t ∧ t.busy = false ∧ t.done = true

/-! ### The functions of the cipher -/

/-- The check definition of SBOX (R123): the multiplicative inverse, then the affine map. -/
def Obligations.SboxIsTheAffineImageOfTheInverse : Prop :=
  (∀ x : Byte, x ≠ 0 → ∃ b, gmul x b = 1) ∧
  ∀ x b : Byte, gmul x b = 1 ∨ (x = 0 ∧ b = 0) →
    sbox x = b ^^^ b.rotateLeft 1 ^^^ b.rotateLeft 2 ^^^ b.rotateLeft 3 ^^^ b.rotateLeft 4 ^^^ 0x63

/-- RCON, RotWord and SubWord written out (R124, R125, R126). -/
def Obligations.RconRotWordSubWord : Prop :=
  (rcon 1 = 0x01 ∧ rcon 2 = 0x02 ∧ rcon 3 = 0x04 ∧ rcon 4 = 0x08 ∧ rcon 5 = 0x10 ∧
    rcon 6 = 0x20 ∧ rcon 7 = 0x40 ∧ rcon 8 = 0x80 ∧ rcon 9 = 0x1B ∧ rcon 10 = 0x36) ∧
  (∀ r, 1 ≤ r → r ≤ 9 → rcon (r + 1) = xtime (rcon r)) ∧
  ∀ a0 a1 a2 a3 : Byte, rotWord ⟨a0, a1, a2, a3⟩ = ⟨a1, a2, a3, a0⟩ ∧
    subWord ⟨a0, a1, a2, a3⟩ = ⟨sbox a0, sbox a1, sbox a2, sbox a3⟩

/-- INVSBOX and SBOX are inverse to each other, all 256 entries (R160). -/
def Obligations.InvSboxInvertsSbox : Prop :=
  ∀ x : Byte, invSbox (sbox x) = x ∧ sbox (invSbox x) = x

/-- The laws of the product in GF(2^8) (R121). -/
def Obligations.FieldProductLaws : Prop :=
  ∀ a b c : Byte, gmul a 0 = 0 ∧ gmul a 1 = a ∧ gmul a b = gmul b a ∧
    gmul (gmul a b) c = gmul a (gmul b c) ∧ gmul a (b ^^^ c) = gmul a b ^^^ gmul a c

/-- The laws of the stages: four InvShiftRows are the identity, InvShiftRows and InvSubBytes commute (R161);
InvMixColumns is linear, maps zero to zero and fixes a column of equal bytes (R163); AddRoundKey is its
own inverse (R164). The spec marks these laws as its inferences. -/
def Obligations.StageLaws : Prop :=
  (∀ s, invShiftRowsF (invShiftRowsF (invShiftRowsF (invShiftRowsF s))) = s) ∧
  (∀ s, invShiftRowsF (invSubBytesF s) = invSubBytesF (invShiftRowsF s)) ∧
  (∀ x y, invMixColumn (Col.xor x y) = Col.xor (invMixColumn x) (invMixColumn y)) ∧
  invMixColumn Col.zero = Col.zero ∧
  (∀ b : Byte, invMixColumn ⟨b, b, b, b⟩ = ⟨b, b, b, b⟩) ∧
  (∀ rk s r, addRoundKeyF rk (addRoundKeyF rk s r) r = s)

/-- "For every key K and block P, `InvCipher(Cipher(P, KeyExpansion(K)), KeyExpansion(K)) = P`" (R167).
The forward cipher is from general knowledge, as the spec says (log 18, PRESUMED). -/
def Obligations.InverseCipherUndoesTheCipher : Prop :=
  ∀ k p : Block, invCipher (forwardCipher p (keyExpansion k)) (keyExpansion k) = p

/-! ### Bus operations -/

/-- A misaligned access, or a write with a byte enable clear, is a bus error and changes nothing of the core
(R76, R77, R78). The value that comes with it is free. -/
def Obligations.BusErrorsChangeNothing : Prop :=
  ∀ (s : State) (off : Offset) (d : Word) (be : BitVec 4),
    (off.toNat % 4 ≠ 0 →
      ∃ v, exec (.rd off) s = .next { s with resp := .readErr v, draws := s.draws + 1 }) ∧
    (off.toNat % 4 ≠ 0 ∨ be ≠ 0b1111 →
      exec (.wr off d be) s = .next { s with resp := .writeErr })

/-- ID and PARAM: what they read, and that a write is ignored (R63, R64). -/
def Obligations.IdAndParamRead : Prop :=
  ∀ (s : State) (d : Word),
    readAnswers s 0x000 0xAE5D0107 ∧ writeLeaves s 0x000 d s ∧ writeLeaves s 0x004 d s ∧
    ∃ v, readAnswers s 0x004 v ∧ (v.extractLsb' 0 9).toNat = s.params.msgBlocks ∧
      v.extractLsb' 9 7 = 0 ∧ (v.getLsbD 16 = true ↔ s.params.padPolicy = .strict) ∧
      v.extractLsb' 17 15 = 0

/-- A write to CMD with BUSY = 0 is accepted, whatever the word (R95). -/
def Obligations.CommandWriteIsAccepted : Prop :=
  ∀ (s : State) (d : Word), s.busy = false →
    writeLeaves s 0x008 d { s with
      cmdl := d, busy := true, done := false, err := false, errcode := 0, phase := .exec }

/-- A write to CMD with BUSY = 1 is lost and sets OVR (R96). CMD reads 0 (R65). -/
def Obligations.CommandWriteWhileBusyIsLost : Prop :=
  ∀ (s : State) (d : Word), readAnswers s 0x008 0 ∧ (s.busy = true → writeDropped s 0x008 d)

/-- STATUS: its fields as read, SV and KWMASK only while BUSY = 0, and its write, whatever BUSY is (R66). -/
def Obligations.StatusReadAndWrite : Prop :=
  ∀ (s : State) (d : Word),
    (∃ v, readAnswers s 0x00C v ∧
      v.getLsbD 0 = s.busy ∧ v.getLsbD 1 = s.done ∧ v.getLsbD 2 = s.err ∧ v.getLsbD 3 = s.ovr ∧
      (s.busy = false → v.getLsbD 4 = s.sv ∧ v.extractLsb' 8 4 = s.kwmask) ∧
      v.extractLsb' 5 3 = 0 ∧ v.extractLsb' 12 4 = 0 ∧ v.extractLsb' 16 4 = s.errcode ∧
      v.extractLsb' 20 12 = 0) ∧
    writeLeaves s 0x00C d { s with
      done := s.done && !d.getLsbD 1
      err := s.err && !d.getLsbD 2
      errcode := if d.getLsbD 2 then 0 else s.errcode
      ovr := s.ovr && !d.getLsbD 3 }

/-- LEN (R67). -/
def Obligations.LenReadAndWrite : Prop :=
  ∀ (s : State) (d : Word),
    (∃ v, readAnswers s 0x010 v ∧ v.toNat = s.len.toNat) ∧
    (s.busy = false → writeLeaves s 0x010 d { s with len := d.extractLsb' 0 13 }) ∧
    (s.busy = true → writeDropped s 0x010 d)

/-- OUTLEN (R68) and RKj (R72): what they read while BUSY = 0, that the read is answered while BUSY = 1, and
that a write is ignored. -/
def Obligations.OutlenAndRkRead : Prop :=
  ∀ (s : State) (d : Word),
    (∃ v, readAnswers s 0x014 v ∧ (s.busy = false → v.toNat = s.outlen.toNat)) ∧
    writeLeaves s 0x014 d s ∧
    ∀ (j : Nat) (off : Offset), j < 44 → off.toNat = 0x100 + 4 * j →
      (∃ v, readAnswers s off v ∧ (s.busy = false →
        v = rkByte s.rk (4 * j) ++ rkByte s.rk (4 * j + 1) ++ rkByte s.rk (4 * j + 2) ++
          rkByte s.rk (4 * j + 3))) ∧
      writeLeaves s off d s

/-- INTEN (R69): bit 0 of a write, at any time. -/
def Obligations.IntenReadAndWrite : Prop :=
  ∀ (s : State) (d : Word),
    readAnswers s 0x018 (if s.doneIe then 1 else 0) ∧
    writeLeaves s 0x018 d { s with doneIe := d.getLsbD 0 }

/-- KEYj (R70): reads 0; a write with BUSY = 0 replaces its four bytes, bits 31:24 first, and sets KWMASK[j]; with
BUSY = 1 it is dropped. -/
def Obligations.KeyWordWrite : Prop :=
  ∀ (s : State) (d : Word) (j : Nat) (off : Offset), j < 4 → off.toNat = 0x020 + 4 * j →
    readAnswers s off 0 ∧
    (s.busy = true → writeDropped s off d) ∧
    (s.busy = false → ∃ k m, writeLeaves s off d { s with key := k, kwmask := m } ∧
      (∀ i < 16, k.byte i =
        if i / 4 = j then d.extractLsb' (24 - 8 * (i % 4)) 8 else s.key.byte i) ∧
      ∀ n < 4, m.getLsbD n = (decide (n = j) || s.kwmask.getLsbD n))

/-- STATEj (R71). -/
def Obligations.StateWordReadAndWrite : Prop :=
  ∀ (s : State) (d : Word) (j : Nat) (off : Offset), j < 4 → off.toNat = 0x030 + 4 * j →
    (∃ v, readAnswers s off v ∧ (s.busy = false →
      v = s.state.byte (4 * j) ++ s.state.byte (4 * j + 1) ++ s.state.byte (4 * j + 2) ++
        s.state.byte (4 * j + 3))) ∧
    (s.busy = true → writeDropped s off d) ∧
    (s.busy = false → ∃ v, writeLeaves s off d { s with state := v } ∧
      ∀ i < 16, v.byte i =
        if i / 4 = j then d.extractLsb' (24 - 8 * (i % 4)) 8 else s.state.byte i)

/-- The MSG window (R73): an aligned word inside the buffer, `a = A - 0x1000`. -/
def Obligations.MsgWindowReadAndWrite : Prop :=
  ∀ (s : State) (d : Word) (a : Nat) (off : Offset), a % 4 = 0 → a < s.params.msgBytes →
    off.toNat = 0x1000 + a →
    (∃ v, readAnswers s off v ∧ (s.busy = false →
      v = s.msgByte a ++ s.msgByte (a + 1) ++ s.msgByte (a + 2) ++ s.msgByte (a + 3))) ∧
    (s.busy = true → writeDropped s off d) ∧
    (s.busy = false → ∃ m, writeLeaves s off d { s with msg := m } ∧
      ∀ x, ({ s with msg := m } : State).msgByte x =
        if a ≤ x ∧ x < a + 4 then d.extractLsb' (24 - 8 * (x - a)) 8 else s.msgByte x)

/-- An aligned offset that the map does not assign reads 0 and ignores writes, whatever BUSY is (R61, R62). -/
def Obligations.UnassignedOffsetsReadZero : Prop :=
  ∀ (s : State) (d : Word) (off : Offset), off.toNat % 4 = 0 →
    (off.toNat = 0x01C ∨ (0x040 ≤ off.toNat ∧ off.toNat < 0x100) ∨
      (0x1B0 ≤ off.toNat ∧ off.toNat < 0x1000) ∨ 0x1000 + s.params.msgBytes ≤ off.toNat) →
    readAnswers s off 0 ∧ writeLeaves s off d s

/-- No read tells two keys apart: "The host cannot read the key" (R22). That a read whose value is ANY (of a
misaligned offset, R76, or while BUSY = 1, R82) draws the same one in both states is the model's (log 3). -/
def Obligations.NoReadRevealsTheKey : Prop :=
  ∀ (s : State) (k : Block) (off : Offset),
    ∃ t, exec (.rd off) s = .next t ∧
      exec (.rd off) { s with key := k } = .next { t with key := k }

/-- While BUSY = 1 no read tells apart two states that differ in STATE, RKB, SV, MSG, OUTLEN, KEY and KWMASK:
the reads of STATEj, RKj, MSG, OUTLEN and STATUS bits 4 and 11:8 show nothing of the job (R82). That an ANY is
the same draw in both is the model's (log 3). -/
def Obligations.ReadsWhileBusyShowNothingOfTheJob : Prop :=
  ∀ (s : State) (st key : Block) (rk : Schedule) (sv : Bool) (msg : List Host.Cell) (epoch : Nat)
    (outlen : BitVec 13) (kwmask : BitVec 4) (off : Offset), s.busy = true →
    ∃ r, exec (.rd off) s = .next { s with resp := r, draws := s.draws + 1 } ∧
      exec (.rd off) { s with
          state := st, key := key, rk := rk, sv := sv, msg := msg, epoch := epoch,
          outlen := outlen, kwmask := kwmask } =
        .next { s with
          state := st, key := key, rk := rk, sv := sv, msg := msg, epoch := epoch,
          outlen := outlen, kwmask := kwmask, resp := r, draws := s.draws + 1 }

/-! ### The whole machine -/

/-- The reset values of R38. MSG is unspecified there, so nothing is said of it (log 4). -/
def Obligations.ResetValues : Prop :=
  State.reset.key = Block.zero ∧ State.reset.kwmask = 0 ∧
  (∀ k < 176, rkByte State.reset.rk k = 0) ∧ State.reset.sv = false ∧
  State.reset.state = Block.zero ∧
  State.reset.len = 0 ∧ State.reset.outlen = 0 ∧ State.reset.doneIe = false ∧
  State.reset.busy = false ∧ State.reset.done = false ∧ State.reset.err = false ∧
  State.reset.ovr = false ∧ State.reset.errcode = 0 ∧ State.reset.cmdl = 0 ∧
  State.reset.phase = .idle ∧ State.reset.pending = [] ∧ State.reset.nblk = 0 ∧
  State.reset.irq = false

/-- The invariant holds after reset. -/
def Obligations.InvHoldsAtReset : Prop := Invariant State.reset

/-- Every step keeps the invariant, from every state that satisfies it. -/
def Obligations.StepKeepsInv : Prop :=
  ∀ s t : State, Invariant s → step s = .next t → Invariant t

/-- In a state of the invariant a step never stops: the three faults of the model, which stand for what the
spec says cannot occur (log 9), are not reached. -/
def Obligations.StepNeverStops : Prop :=
  ∀ s : State, Invariant s → ∃ t, step s = .next t

/-- Which instructions write which state (R22, R24, R26 to R30, R33); no instruction changes the parameters
(R37). -/
def Obligations.OnlyTheNamedInstructionsWrite : Prop :=
  ∀ (i : Instr) (s t : State), exec i s = .next t →
    (t.key ≠ s.key ∨ t.kwmask ≠ s.kwmask →
      i = .keyExpand ∨ i = .keyClear ∨ i = .ecbDecrypt ∨
      ∃ off d be, i = .wr off d be ∧ 0x020 ≤ off.toNat ∧ off.toNat < 0x030) ∧
    (t.rk ≠ s.rk ∨ t.sv ≠ s.sv → i = .keyExpand ∨ i = .schedClear ∨ i = .ecbDecrypt) ∧
    (t.state ≠ s.state →
      (∃ b, i = .loadState b) ∨ i = .invShiftRows ∨ i = .invSubBytes ∨ i = .invMixColumns ∨
      (∃ r, i = .addRoundKey r) ∨ i = .decryptState ∨
      ∃ off d be, i = .wr off d be ∧ 0x030 ≤ off.toNat ∧ off.toNat < 0x040) ∧
    (¬ sameMsg s t →
      (∃ b, i = .storeState b) ∨ ∃ off d be, i = .wr off d be ∧ 0x1000 ≤ off.toNat) ∧
    (t.len ≠ s.len → ∃ d be, i = .wr 0x010 d be) ∧
    (t.outlen ≠ s.outlen → i = .ecbDecrypt) ∧
    (t.doneIe ≠ s.doneIe → ∃ d be, i = .wr 0x018 d be) ∧
    (t.cmdl ≠ s.cmdl → ∃ d be, i = .wr 0x008 d be) ∧
    (t.pending ≠ s.pending ∨ t.nblk ≠ s.nblk → i = .ecbDecrypt) ∧
    t.params = s.params

/-- While a command runs, no line of the host but the reset changes its inputs or the job (R83, R96). -/
def Obligations.RunningJobIsImmutable : Prop :=
  ∀ (s t : State) (l : HostLine), s.busy = true → l ≠ .rst → hostStep l s = .next t →
    sameKey s t ∧ sameSchedule s t ∧ t.state = s.state ∧ sameMsg s t ∧ t.len = s.len ∧
    t.outlen = s.outlen ∧ t.cmdl = s.cmdl ∧ t.phase = s.phase ∧ t.pending = s.pending ∧
    t.nblk = s.nblk ∧ t.busy = true

/-- Reset between any two steps, a command running or not (R280, R281, R282): every piece of state at its
reset value, no completion, the parameters unchanged. That the bytes of MSG are drawn anew under a new draw
number, and that the host's side stays, is the model's (log 4, log 11). -/
def Obligations.ResetAbandonsTheCommand : Prop :=
  ∀ s : State, Invariant s → ∃ t, hostStep .rst s = .next t ∧
    t.key = Block.zero ∧ t.kwmask = 0 ∧ t.rk = Schedule.zero ∧ t.sv = false ∧
    t.state = Block.zero ∧ (∀ a, t.msgByte a = Config.resetByte t.epoch a) ∧ s.epoch < t.epoch ∧
    t.len = 0 ∧ t.outlen = 0 ∧ t.doneIe = false ∧ t.busy = false ∧ t.done = false ∧
    t.err = false ∧ t.ovr = false ∧ t.errcode = 0 ∧ t.cmdl = 0 ∧ t.phase = .idle ∧
    t.pending = [] ∧ t.nblk = 0 ∧ t.irq = false ∧ t.params = s.params ∧ t.hostOps = s.hostOps

/-- irq (R35, R249): asserted when a command finishes, with or without error, while DONE_IE = 1; asserted by
setting DONE_IE while DONE = 1; cleared by W1C of DONE, by acceptance and by clearing DONE_IE. -/
def Obligations.IrqFollowsDone : Prop :=
  ∀ (s t : State) (d : Word),
    (s.busy = true → coreStep s = .next t → t.busy = false → t.irq = s.doneIe) ∧
    (exec (.wr 0x018 d 0b1111) s = .next t → t.irq = (d.getLsbD 0 && s.done)) ∧
    (exec (.wr 0x00C d 0b1111) s = .next t → d.getLsbD 1 = true → t.irq = false) ∧
    (exec (.wr 0x008 d 0b1111) s = .next t → s.busy = false → t.irq = false)

/-- After acceptance a read of STATUS sees BUSY = 1 or DONE = 1, "with no host write to STATUS or reset between
them" (R84); and OVR stays set until the host clears it or a reset (R32, R247). The step of the core is held
to it whatever the host's next line is (the race of R250). -/
def Obligations.CompletionAndOverrunStayVisible : Prop :=
  ∀ s t : State,
    (s.busy = false ∨ agentChosen s = .host →
      (∀ ls, s.hostOps ≠ .rst :: ls) ∧ ∀ d be ls, s.hostOps ≠ .wr 0x00C d be :: ls) →
    step s = .next t →
    (s.busy = true ∨ s.done = true → t.busy = true ∨ t.done = true) ∧
    (s.ovr = true → t.ovr = true)

/-! ### Host program lines -/

/-- `expect` is the read of its offset, and the program fails exactly when the value read, with a bus error the
ANY_32 that comes with it, is another (R77, R104). That a failed program does no more is the model's (log 10). -/
def Obligations.ExpectFailsOnAnotherValue : Prop :=
  ∀ (s : State) (off : Offset) (value : Word), ∃ u v, exec (.rd off) s = .next u ∧
    ((off.toNat % 4 = 0 ∧ u.resp = .readOk v) ∨ (off.toNat % 4 ≠ 0 ∧ u.resp = .readErr v)) ∧
    (v = value → hostStep (.expect off value) s = .next u) ∧
    (v ≠ value →
      hostStep (.expect off value) s = .next { u with hostOps := [], hostFailed := true })
end

