-- ==== Sys2Proof/Laws/Bytes.lean ====
section
/-! SUPPORT. Bytes of columns and blocks: reading what was put in, and when two are equal. -/

namespace Sys2Proof

theorem Block.byte_ofFn (f : Nat → Byte) {i : Nat} (hi : i < 16) : (Block.ofFn f).byte i = f i := by
  interval_cases i <;> rfl

/-- Two blocks with the same sixteen bytes are equal. -/
theorem Block.ext_byte {x y : Block} (h : ∀ i < 16, x.byte i = y.byte i) : x = y := by
  have e : ∀ z : Block, z = Block.ofFn z.byte := fun _ => rfl
  rw [e x, e y]
  simp only [Block.ofFn, h _ (by decide : 0 < 16), h _ (by decide : 1 < 16),
    h _ (by decide : 2 < 16), h _ (by decide : 3 < 16), h _ (by decide : 4 < 16),
    h _ (by decide : 5 < 16), h _ (by decide : 6 < 16), h _ (by decide : 7 < 16),
    h _ (by decide : 8 < 16), h _ (by decide : 9 < 16), h _ (by decide : 10 < 16),
    h _ (by decide : 11 < 16), h _ (by decide : 12 < 16), h _ (by decide : 13 < 16),
    h _ (by decide : 14 < 16), h _ (by decide : 15 < 16)]

@[simp] theorem Block.ofFn_byte (x : Block) : Block.ofFn x.byte = x := rfl

theorem Block.ofFn_congr {f g : Nat → Byte} (h : ∀ i < 16, f i = g i) :
    Block.ofFn f = Block.ofFn g :=
  Block.ext_byte fun i hi => by rw [Block.byte_ofFn f hi, Block.byte_ofFn g hi, h i hi]

@[simp] theorem Col.length_toList (c : Col) : c.toList.length = 4 := rfl

@[simp] theorem Block.length_toList (x : Block) : x.toList.length = 16 := rfl

theorem Col.getElem_toList (c : Col) {k : Nat} (hk : k < c.toList.length) :
    c.toList[k] = c.byte k := by
  have h : k < 4 := hk
  interval_cases k <;> rfl

theorem Block.getElem_toList (x : Block) {k : Nat} (hk : k < x.toList.length) :
    x.toList[k] = x.byte k := by
  have h : k < 16 := hk
  interval_cases k <;> rfl

/-- A block with column `j` replaced, byte by byte. -/
theorem Block.byte_setCol (x : Block) (j : Fin 4) (c : Col) {i : Nat} (hi : i < 16) :
    (x.setCol j c).byte i = if i / 4 = j.val then c.byte (i % 4) else x.byte i := by
  fin_cases j <;> interval_cases i <;> rfl

/-- Byte `r` of the column of a bus word (R74). -/
theorem Col.byte_ofWord (w : Word) {r : Nat} (hr : r < 4) :
    (Col.ofWord w).byte r = w.extractLsb' (24 - 8 * r) 8 := by
  interval_cases r <;> rfl

/-- The bus word of a column holds its bytes, row 0 in bits 31:24 (R74). -/
theorem Col.ofWord_toWord (c : Col) : Col.ofWord c.toWord = c := by
  cases c
  simp only [Col.ofWord, Col.toWord, Col.mk.injEq]
  refine ⟨?_, ?_, ?_, ?_⟩ <;> (ext i hi; simp; grind)

/-- The column of a bus word gives the word back (R74). -/
theorem Col.toWord_ofWord (w : Word) : (Col.ofWord w).toWord = w := by
  refine BitVec.eq_of_getLsbD_eq fun i hi => ?_
  simp only [Col.toWord, Col.ofWord, BitVec.getLsbD_append, BitVec.getLsbD_extractLsb']
  grind

end Sys2Proof
end

