-- ==== Sys2Proof/Laws/Memory.lean ====
section
/-! SUPPORT. The message buffer: reading after a write, the canonical form, and that equal memories are equal
lists. -/

namespace Sys2Proof.Machine

/-- One byte written (R75): that offset reads it, every other reads as before. -/
theorem Memory.read?_write (m : Memory) (a x : Nat) (b : Byte) :
    Memory.read? (Memory.write m a b) x = if x = a then some b else Memory.read? m x := by
  induction m with
  | nil => simp [Memory.write, Memory.read?]
  | cons c m ih =>
    obtain ⟨a', b'⟩ := c
    simp only [Memory.write]
    split
    · simp [Memory.read?]
    · split
      · rename_i h; subst h; simp only [Memory.read?]; split <;> rfl
      · simp only [Memory.read?, ih]
        split <;> split <;> first | rfl | omega

/-- A list of bytes written from `a` on: those offsets read them, every other reads as before. -/
theorem Memory.read?_writeList (bs : List Byte) :
    ∀ (m : Memory) (a x : Nat), Memory.read? (Memory.writeList m a bs) x =
      if a ≤ x then (if h : x - a < bs.length then some bs[x - a] else Memory.read? m x)
      else Memory.read? m x := by
  induction bs with
  | nil => intro m a x; simp [Memory.writeList]
  | cons b bs ih =>
    intro m a x
    simp only [Memory.writeList, ih, Memory.read?_write]
    rcases Nat.lt_trichotomy x a with h | h | h
    · simp [show ¬ a + 1 ≤ x by omega, show ¬ a ≤ x by omega, show x ≠ a by omega]
    · subst h; simp
    · obtain ⟨k, rfl⟩ : ∃ k, x = a + 1 + k := ⟨x - (a + 1), by omega⟩
      simp [show a + 1 + k ≠ a by omega, show a ≤ a + 1 + k by omega,
        show a + 1 + k - a = k + 1 by omega]

theorem Memory.wf_cons {c : Host.Cell} {m : Memory} :
    Memory.wf (c :: m) = true ↔ (∀ d ∈ m, c.1 < d.1) ∧ Memory.wf m = true := by
  induction m generalizing c with
  | nil => simp [Memory.wf]
  | cons e m ih =>
    obtain ⟨a, x⟩ := c
    obtain ⟨b, y⟩ := e
    simp only [Memory.wf, Bool.and_eq_true, decide_eq_true_eq, ih, List.mem_cons,
      forall_eq_or_imp]
    constructor
    · rintro ⟨h1, h2, h3⟩; exact ⟨⟨h1, fun d hd => lt_trans h1 (h2 d hd)⟩, h2, h3⟩
    · rintro ⟨⟨h1, _⟩, h2, h3⟩; exact ⟨h1, h2, h3⟩

/-- The offsets of a memory after a write are those before and the one written. -/
theorem Memory.mem_write {m : Memory} {a : Nat} {b : Byte} {c : Host.Cell}
    (h : c ∈ Memory.write m a b) : c.1 = a ∨ c ∈ m := by
  induction m with
  | nil => simp [Memory.write] at h; subst h; exact .inl rfl
  | cons e m ih =>
    obtain ⟨a', b'⟩ := e
    simp only [Memory.write] at h
    split at h
    · rcases List.mem_cons.1 h with h | h
      · subst h; exact .inl rfl
      · exact .inr h
    · split at h
      · rcases List.mem_cons.1 h with h | h
        · subst h; exact .inl rfl
        · exact .inr (List.mem_cons_of_mem _ h)
      · rcases List.mem_cons.1 h with h | h
        · subst h; exact .inr (List.mem_cons_self ..)
        · exact (ih h).imp_right (List.mem_cons_of_mem _)

/-- A write keeps the canonical form. -/
theorem Memory.wf_write {m : Memory} (a : Nat) (b : Byte) (h : Memory.wf m = true) :
    Memory.wf (Memory.write m a b) = true := by
  induction m with
  | nil => rfl
  | cons e m ih =>
    obtain ⟨a', b'⟩ := e
    obtain ⟨h1, h2⟩ := Memory.wf_cons.1 h
    simp only [Memory.write]
    split
    · rename_i lt
      refine Memory.wf_cons.2 ⟨fun d hd => ?_, h⟩
      rcases List.mem_cons.1 hd with hd | hd
      · subst hd; exact lt
      · exact lt_trans lt (h1 d hd)
    · split
      · rename_i e; subst e; exact Memory.wf_cons.2 ⟨h1, h2⟩
      · refine Memory.wf_cons.2 ⟨fun d hd => ?_, ih h2⟩
        rcases Memory.mem_write hd with hd | hd
        · show a' < d.1
          omega
        · exact h1 d hd

theorem Memory.wf_writeList (bs : List Byte) :
    ∀ {m : Memory} (a : Nat), Memory.wf m = true → Memory.wf (Memory.writeList m a bs) = true := by
  induction bs with
  | nil => intro m a h; exact h
  | cons b bs ih => intro m a h; exact ih (a + 1) (Memory.wf_write a b h)

theorem Memory.mem_writeList (bs : List Byte) :
    ∀ {m : Memory} {a : Nat} {c : Host.Cell}, c ∈ Memory.writeList m a bs →
      (a ≤ c.1 ∧ c.1 < a + bs.length) ∨ c ∈ m := by
  induction bs with
  | nil => intro m a c h; exact .inr h
  | cons b bs ih =>
    intro m a c h
    rcases ih h with h | h
    · left; simp only [List.length_cons]; omega
    · rcases Memory.mem_write h with h | h
      · left; simp only [List.length_cons]; omega
      · exact .inr h

theorem Memory.read?_eq_none {m : Memory} {a : Nat} (h : ∀ c ∈ m, c.1 ≠ a) :
    Memory.read? m a = none := by
  induction m with
  | nil => rfl
  | cons c m ih =>
    obtain ⟨a', b'⟩ := c
    have h1 : a ≠ a' := fun e => h (a', b') (List.mem_cons_self ..) e.symm
    simp only [Memory.read?, h1, if_false]
    exact ih fun d hd => h d (List.mem_cons_of_mem _ hd)

/-- Equal memories are equal data: two memories in canonical form that read alike are the same list. -/
theorem Memory.ext_read? : ∀ {m n : Memory}, Memory.wf m = true → Memory.wf n = true →
    (∀ a, Memory.read? m a = Memory.read? n a) → m = n
  | [], [], _, _, _ => rfl
  | [], (a, b) :: n, _, _, h => by have := h a; simp [Memory.read?] at this
  | (a, b) :: m, [], _, _, h => by have := h a; simp [Memory.read?] at this
  | (a, b) :: m, (a', b') :: n, hm, hn, h => by
    obtain ⟨m1, m2⟩ := Memory.wf_cons.1 hm
    obtain ⟨n1, n2⟩ := Memory.wf_cons.1 hn
    have e : a = a' := by
      rcases Nat.lt_trichotomy a a' with lt | e | lt
      · have h0 := h a
        rw [Memory.read?_eq_none (m := (a', b') :: n) (by
          intro c hc
          rcases List.mem_cons.1 hc with hc | hc
          · subst hc; show a' ≠ a; omega
          · have := n1 c hc; simp only at this; omega)] at h0
        simp [Memory.read?] at h0
      · exact e
      · have h0 := h a'
        rw [Memory.read?_eq_none (m := (a, b) :: m) (by
          intro c hc
          rcases List.mem_cons.1 hc with hc | hc
          · subst hc; show a ≠ a'; omega
          · have := m1 c hc; simp only at this; omega)] at h0
        simp [Memory.read?] at h0
    subst e
    have hb : b = b' := by have := h a; simpa [Memory.read?] using this
    subst hb
    congr 1
    refine Memory.ext_read? m2 n2 fun x => ?_
    by_cases hx : x = a
    · subst hx
      rw [Memory.read?_eq_none fun c hc => by have := m1 c hc; simp only at this; omega,
        Memory.read?_eq_none fun c hc => by have := n1 c hc; simp only at this; omega]
    · have := h x; simpa [Memory.read?, hx] using this

/-! The buffer of a state. -/

/-- `MemWrite` (R75): the bytes of the list from `a` on, and no other. -/
theorem State.msgByte_memWrite (s : State) (a x : Nat) (v : List Byte) :
    (s.memWrite a v).msgByte x =
      if a ≤ x ∧ x < a + v.length then v.getD (x - a) 0 else s.msgByte x := by
  simp only [State.msgByte, State.memWrite, Memory.read?_writeList]
  by_cases h : a ≤ x
  · by_cases h2 : x - a < v.length
    · have h3 : x < a + v.length := by omega
      simp [h, h2, h3]
    · have h3 : ¬ x < a + v.length := by omega
      simp [h, h2, h3]
  · simp [h]

/-- A block written (R75): its sixteen bytes, and no other. -/
theorem State.msgByte_writeBlock (s : State) (b x : Nat) (v : Block) :
    (s.writeBlock b v).msgByte x =
      if 16 * b ≤ x ∧ x < 16 * b + 16 then v.byte (x - 16 * b) else s.msgByte x := by
  have hl : v.toList.length = 16 := rfl
  rw [State.writeBlock, State.msgByte_memWrite]
  by_cases h : 16 * b ≤ x ∧ x < 16 * b + 16
  · have hk : x - 16 * b < 16 := by omega
    rw [if_pos h, if_pos (hl ▸ h), List.getD_eq_getElem (hn := hk), Block.getElem_toList v hk]
  · rw [if_neg h, if_neg (hl ▸ h)]

/-- `MemWrite` keeps the canonical form. -/
theorem State.wf_memWrite {s : State} (a : Nat) (v : List Byte) (h : Memory.wf s.msg = true) :
    Memory.wf (s.memWrite a v).msg = true :=
  Memory.wf_writeList v a h

/-- `MemWrite` lists only its own offsets anew. -/
theorem State.mem_memWrite {s : State} {a : Nat} {v : List Byte} {c : Host.Cell}
    (h : c ∈ (s.memWrite a v).msg) : (a ≤ c.1 ∧ c.1 < a + v.length) ∨ c ∈ s.msg :=
  Memory.mem_writeList v h

theorem State.wf_writeBlock {s : State} (b : Nat) (v : Block) (h : Memory.wf s.msg = true) :
    Memory.wf (s.writeBlock b v).msg = true :=
  State.wf_memWrite _ _ h

theorem State.mem_writeBlock {s : State} {b : Nat} {v : Block} {c : Host.Cell}
    (h : c ∈ (s.writeBlock b v).msg) : (16 * b ≤ c.1 ∧ c.1 < 16 * b + 16) ∨ c ∈ s.msg :=
  State.mem_memWrite h

/-- A block read (R75), byte by byte. -/
theorem State.byte_readBlock (s : State) (b : Nat) {k : Nat} (hk : k < 16) :
    (s.readBlock b).byte k = s.msgByte (16 * b + k) :=
  Block.byte_ofFn _ hk

@[simp] theorem State.length_memRead (n : Nat) :
    ∀ (s : State) (a : Nat), (s.memRead a n).length = n := by
  induction n with
  | zero => intros; rfl
  | succ n ih => intro s a; simp [State.memRead, ih]

/-- `MemRead` (R75), byte by byte. -/
theorem State.getD_memRead (n : Nat) :
    ∀ (s : State) (a : Nat) {k : Nat}, k < n → (s.memRead a n).getD k 0 = s.msgByte (a + k) := by
  induction n with
  | zero => intro s a k h; omega
  | succ n ih =>
    intro s a k h
    cases k with
    | zero => rfl
    | succ k =>
      rw [State.memRead, List.getD_cons_succ, ih s (a + 1) (by omega)]
      congr 1
      omega

end Sys2Proof.Machine
end

