-- ==== Sys2Proof/Laws/State.lean ====
section
/-! SUPPORT. One lemma per field per named update of State, true by rfl, for simp. -/

namespace Sys2Proof.Machine

variable (s : State)

/-! `acceptCommand d s` -/

@[simp] theorem acceptCommand_key (d : Word) : (acceptCommand d s).key = s.key := rfl
@[simp] theorem acceptCommand_kwmask (d : Word) : (acceptCommand d s).kwmask = s.kwmask := rfl
@[simp] theorem acceptCommand_rk (d : Word) : (acceptCommand d s).rk = s.rk := rfl
@[simp] theorem acceptCommand_sv (d : Word) : (acceptCommand d s).sv = s.sv := rfl
@[simp] theorem acceptCommand_state (d : Word) : (acceptCommand d s).state = s.state := rfl
@[simp] theorem acceptCommand_msg (d : Word) : (acceptCommand d s).msg = s.msg := rfl
@[simp] theorem acceptCommand_len (d : Word) : (acceptCommand d s).len = s.len := rfl
@[simp] theorem acceptCommand_outlen (d : Word) : (acceptCommand d s).outlen = s.outlen := rfl
@[simp] theorem acceptCommand_doneIe (d : Word) : (acceptCommand d s).doneIe = s.doneIe := rfl
@[simp] theorem acceptCommand_busy (d : Word) : (acceptCommand d s).busy = true := rfl
@[simp] theorem acceptCommand_done (d : Word) : (acceptCommand d s).done = false := rfl
@[simp] theorem acceptCommand_err (d : Word) : (acceptCommand d s).err = false := rfl
@[simp] theorem acceptCommand_ovr (d : Word) : (acceptCommand d s).ovr = s.ovr := rfl
@[simp] theorem acceptCommand_errcode (d : Word) : (acceptCommand d s).errcode = 0 := rfl
@[simp] theorem acceptCommand_cmdl (d : Word) : (acceptCommand d s).cmdl = d := rfl
@[simp] theorem acceptCommand_phase (d : Word) : (acceptCommand d s).phase = .exec := rfl
@[simp] theorem acceptCommand_pending (d : Word) : (acceptCommand d s).pending = s.pending := rfl
@[simp] theorem acceptCommand_nblk (d : Word) : (acceptCommand d s).nblk = s.nblk := rfl
@[simp] theorem acceptCommand_params (d : Word) : (acceptCommand d s).params = s.params := rfl
@[simp] theorem acceptCommand_epoch (d : Word) : (acceptCommand d s).epoch = s.epoch := rfl
@[simp] theorem acceptCommand_draws (d : Word) : (acceptCommand d s).draws = s.draws := rfl
@[simp] theorem acceptCommand_resp (d : Word) : (acceptCommand d s).resp = s.resp := rfl
@[simp] theorem acceptCommand_hostOps (d : Word) : (acceptCommand d s).hostOps = s.hostOps := rfl
@[simp] theorem acceptCommand_turns (d : Word) : (acceptCommand d s).turns = s.turns := rfl
@[simp] theorem acceptCommand_hostFailed (d : Word) : (acceptCommand d s).hostFailed = s.hostFailed := rfl

/-! `finish none s` -/

@[simp] theorem finish_none_key : (finish none s).key = s.key := rfl
@[simp] theorem finish_none_kwmask : (finish none s).kwmask = s.kwmask := rfl
@[simp] theorem finish_none_rk : (finish none s).rk = s.rk := rfl
@[simp] theorem finish_none_sv : (finish none s).sv = s.sv := rfl
@[simp] theorem finish_none_state : (finish none s).state = s.state := rfl
@[simp] theorem finish_none_msg : (finish none s).msg = s.msg := rfl
@[simp] theorem finish_none_len : (finish none s).len = s.len := rfl
@[simp] theorem finish_none_outlen : (finish none s).outlen = s.outlen := rfl
@[simp] theorem finish_none_doneIe : (finish none s).doneIe = s.doneIe := rfl
@[simp] theorem finish_none_busy : (finish none s).busy = false := rfl
@[simp] theorem finish_none_done : (finish none s).done = true := rfl
@[simp] theorem finish_none_err : (finish none s).err = s.err := rfl
@[simp] theorem finish_none_ovr : (finish none s).ovr = s.ovr := rfl
@[simp] theorem finish_none_errcode : (finish none s).errcode = s.errcode := rfl
@[simp] theorem finish_none_cmdl : (finish none s).cmdl = s.cmdl := rfl
@[simp] theorem finish_none_phase : (finish none s).phase = .idle := rfl
@[simp] theorem finish_none_pending : (finish none s).pending = s.pending := rfl
@[simp] theorem finish_none_nblk : (finish none s).nblk = s.nblk := rfl
@[simp] theorem finish_none_params : (finish none s).params = s.params := rfl
@[simp] theorem finish_none_epoch : (finish none s).epoch = s.epoch := rfl
@[simp] theorem finish_none_draws : (finish none s).draws = s.draws := rfl
@[simp] theorem finish_none_resp : (finish none s).resp = s.resp := rfl
@[simp] theorem finish_none_hostOps : (finish none s).hostOps = s.hostOps := rfl
@[simp] theorem finish_none_turns : (finish none s).turns = s.turns := rfl
@[simp] theorem finish_none_hostFailed : (finish none s).hostFailed = s.hostFailed := rfl

/-! `finish (some e) s` -/

@[simp] theorem finish_some_key (e : CmdError) : (finish (some e) s).key = s.key := rfl
@[simp] theorem finish_some_kwmask (e : CmdError) : (finish (some e) s).kwmask = s.kwmask := rfl
@[simp] theorem finish_some_rk (e : CmdError) : (finish (some e) s).rk = s.rk := rfl
@[simp] theorem finish_some_sv (e : CmdError) : (finish (some e) s).sv = s.sv := rfl
@[simp] theorem finish_some_state (e : CmdError) : (finish (some e) s).state = s.state := rfl
@[simp] theorem finish_some_msg (e : CmdError) : (finish (some e) s).msg = s.msg := rfl
@[simp] theorem finish_some_len (e : CmdError) : (finish (some e) s).len = s.len := rfl
@[simp] theorem finish_some_outlen (e : CmdError) : (finish (some e) s).outlen = s.outlen := rfl
@[simp] theorem finish_some_doneIe (e : CmdError) : (finish (some e) s).doneIe = s.doneIe := rfl
@[simp] theorem finish_some_busy (e : CmdError) : (finish (some e) s).busy = false := rfl
@[simp] theorem finish_some_done (e : CmdError) : (finish (some e) s).done = true := rfl
@[simp] theorem finish_some_err (e : CmdError) : (finish (some e) s).err = true := rfl
@[simp] theorem finish_some_ovr (e : CmdError) : (finish (some e) s).ovr = s.ovr := rfl
@[simp] theorem finish_some_errcode (e : CmdError) : (finish (some e) s).errcode = e.code := rfl
@[simp] theorem finish_some_cmdl (e : CmdError) : (finish (some e) s).cmdl = s.cmdl := rfl
@[simp] theorem finish_some_phase (e : CmdError) : (finish (some e) s).phase = .idle := rfl
@[simp] theorem finish_some_pending (e : CmdError) : (finish (some e) s).pending = s.pending := rfl
@[simp] theorem finish_some_nblk (e : CmdError) : (finish (some e) s).nblk = s.nblk := rfl
@[simp] theorem finish_some_params (e : CmdError) : (finish (some e) s).params = s.params := rfl
@[simp] theorem finish_some_epoch (e : CmdError) : (finish (some e) s).epoch = s.epoch := rfl
@[simp] theorem finish_some_draws (e : CmdError) : (finish (some e) s).draws = s.draws := rfl
@[simp] theorem finish_some_resp (e : CmdError) : (finish (some e) s).resp = s.resp := rfl
@[simp] theorem finish_some_hostOps (e : CmdError) : (finish (some e) s).hostOps = s.hostOps := rfl
@[simp] theorem finish_some_turns (e : CmdError) : (finish (some e) s).turns = s.turns := rfl
@[simp] theorem finish_some_hostFailed (e : CmdError) : (finish (some e) s).hostFailed = s.hostFailed := rfl

/-! `raise e s` -/

@[simp] theorem raise_key (e : CmdError) : (raise e s).key = s.key := rfl
@[simp] theorem raise_kwmask (e : CmdError) : (raise e s).kwmask = s.kwmask := rfl
@[simp] theorem raise_rk (e : CmdError) : (raise e s).rk = s.rk := rfl
@[simp] theorem raise_sv (e : CmdError) : (raise e s).sv = s.sv := rfl
@[simp] theorem raise_state (e : CmdError) : (raise e s).state = s.state := rfl
@[simp] theorem raise_msg (e : CmdError) : (raise e s).msg = s.msg := rfl
@[simp] theorem raise_len (e : CmdError) : (raise e s).len = s.len := rfl
@[simp] theorem raise_outlen (e : CmdError) : (raise e s).outlen = s.outlen := rfl
@[simp] theorem raise_doneIe (e : CmdError) : (raise e s).doneIe = s.doneIe := rfl
@[simp] theorem raise_busy (e : CmdError) : (raise e s).busy = false := rfl
@[simp] theorem raise_done (e : CmdError) : (raise e s).done = true := rfl
@[simp] theorem raise_err (e : CmdError) : (raise e s).err = true := rfl
@[simp] theorem raise_ovr (e : CmdError) : (raise e s).ovr = s.ovr := rfl
@[simp] theorem raise_errcode (e : CmdError) : (raise e s).errcode = e.code := rfl
@[simp] theorem raise_cmdl (e : CmdError) : (raise e s).cmdl = s.cmdl := rfl
@[simp] theorem raise_phase (e : CmdError) : (raise e s).phase = .idle := rfl
@[simp] theorem raise_pending (e : CmdError) : (raise e s).pending = s.pending := rfl
@[simp] theorem raise_nblk (e : CmdError) : (raise e s).nblk = s.nblk := rfl
@[simp] theorem raise_params (e : CmdError) : (raise e s).params = s.params := rfl
@[simp] theorem raise_epoch (e : CmdError) : (raise e s).epoch = s.epoch := rfl
@[simp] theorem raise_draws (e : CmdError) : (raise e s).draws = s.draws := rfl
@[simp] theorem raise_resp (e : CmdError) : (raise e s).resp = s.resp := rfl
@[simp] theorem raise_hostOps (e : CmdError) : (raise e s).hostOps = s.hostOps := rfl
@[simp] theorem raise_turns (e : CmdError) : (raise e s).turns = s.turns := rfl
@[simp] theorem raise_hostFailed (e : CmdError) : (raise e s).hostFailed = s.hostFailed := rfl

/-! `clearStatus d s` -/

@[simp] theorem clearStatus_key (d : Word) : (clearStatus d s).key = s.key := rfl
@[simp] theorem clearStatus_kwmask (d : Word) : (clearStatus d s).kwmask = s.kwmask := rfl
@[simp] theorem clearStatus_rk (d : Word) : (clearStatus d s).rk = s.rk := rfl
@[simp] theorem clearStatus_sv (d : Word) : (clearStatus d s).sv = s.sv := rfl
@[simp] theorem clearStatus_state (d : Word) : (clearStatus d s).state = s.state := rfl
@[simp] theorem clearStatus_msg (d : Word) : (clearStatus d s).msg = s.msg := rfl
@[simp] theorem clearStatus_len (d : Word) : (clearStatus d s).len = s.len := rfl
@[simp] theorem clearStatus_outlen (d : Word) : (clearStatus d s).outlen = s.outlen := rfl
@[simp] theorem clearStatus_doneIe (d : Word) : (clearStatus d s).doneIe = s.doneIe := rfl
@[simp] theorem clearStatus_busy (d : Word) : (clearStatus d s).busy = s.busy := rfl
@[simp] theorem clearStatus_done (d : Word) : (clearStatus d s).done = (if d.getLsbD 1 then false else s.done) := rfl
@[simp] theorem clearStatus_err (d : Word) : (clearStatus d s).err = (if d.getLsbD 2 then false else s.err) := rfl
@[simp] theorem clearStatus_ovr (d : Word) : (clearStatus d s).ovr = (if d.getLsbD 3 then false else s.ovr) := rfl
@[simp] theorem clearStatus_errcode (d : Word) : (clearStatus d s).errcode = (if d.getLsbD 2 then 0 else s.errcode) := rfl
@[simp] theorem clearStatus_cmdl (d : Word) : (clearStatus d s).cmdl = s.cmdl := rfl
@[simp] theorem clearStatus_phase (d : Word) : (clearStatus d s).phase = s.phase := rfl
@[simp] theorem clearStatus_pending (d : Word) : (clearStatus d s).pending = s.pending := rfl
@[simp] theorem clearStatus_nblk (d : Word) : (clearStatus d s).nblk = s.nblk := rfl
@[simp] theorem clearStatus_params (d : Word) : (clearStatus d s).params = s.params := rfl
@[simp] theorem clearStatus_epoch (d : Word) : (clearStatus d s).epoch = s.epoch := rfl
@[simp] theorem clearStatus_draws (d : Word) : (clearStatus d s).draws = s.draws := rfl
@[simp] theorem clearStatus_resp (d : Word) : (clearStatus d s).resp = s.resp := rfl
@[simp] theorem clearStatus_hostOps (d : Word) : (clearStatus d s).hostOps = s.hostOps := rfl
@[simp] theorem clearStatus_turns (d : Word) : (clearStatus d s).turns = s.turns := rfl
@[simp] theorem clearStatus_hostFailed (d : Word) : (clearStatus d s).hostFailed = s.hostFailed := rfl

/-! `overrun s` -/

@[simp] theorem overrun_key : (overrun s).key = s.key := rfl
@[simp] theorem overrun_kwmask : (overrun s).kwmask = s.kwmask := rfl
@[simp] theorem overrun_rk : (overrun s).rk = s.rk := rfl
@[simp] theorem overrun_sv : (overrun s).sv = s.sv := rfl
@[simp] theorem overrun_state : (overrun s).state = s.state := rfl
@[simp] theorem overrun_msg : (overrun s).msg = s.msg := rfl
@[simp] theorem overrun_len : (overrun s).len = s.len := rfl
@[simp] theorem overrun_outlen : (overrun s).outlen = s.outlen := rfl
@[simp] theorem overrun_doneIe : (overrun s).doneIe = s.doneIe := rfl
@[simp] theorem overrun_busy : (overrun s).busy = s.busy := rfl
@[simp] theorem overrun_done : (overrun s).done = s.done := rfl
@[simp] theorem overrun_err : (overrun s).err = s.err := rfl
@[simp] theorem overrun_ovr : (overrun s).ovr = true := rfl
@[simp] theorem overrun_errcode : (overrun s).errcode = s.errcode := rfl
@[simp] theorem overrun_cmdl : (overrun s).cmdl = s.cmdl := rfl
@[simp] theorem overrun_phase : (overrun s).phase = s.phase := rfl
@[simp] theorem overrun_pending : (overrun s).pending = s.pending := rfl
@[simp] theorem overrun_nblk : (overrun s).nblk = s.nblk := rfl
@[simp] theorem overrun_params : (overrun s).params = s.params := rfl
@[simp] theorem overrun_epoch : (overrun s).epoch = s.epoch := rfl
@[simp] theorem overrun_draws : (overrun s).draws = s.draws := rfl
@[simp] theorem overrun_resp : (overrun s).resp = s.resp := rfl
@[simp] theorem overrun_hostOps : (overrun s).hostOps = s.hostOps := rfl
@[simp] theorem overrun_turns : (overrun s).turns = s.turns := rfl
@[simp] theorem overrun_hostFailed : (overrun s).hostFailed = s.hostFailed := rfl

/-! `clearKey s` -/

@[simp] theorem clearKey_key : (clearKey s).key = Block.zero := rfl
@[simp] theorem clearKey_kwmask : (clearKey s).kwmask = 0 := rfl
@[simp] theorem clearKey_rk : (clearKey s).rk = s.rk := rfl
@[simp] theorem clearKey_sv : (clearKey s).sv = s.sv := rfl
@[simp] theorem clearKey_state : (clearKey s).state = s.state := rfl
@[simp] theorem clearKey_msg : (clearKey s).msg = s.msg := rfl
@[simp] theorem clearKey_len : (clearKey s).len = s.len := rfl
@[simp] theorem clearKey_outlen : (clearKey s).outlen = s.outlen := rfl
@[simp] theorem clearKey_doneIe : (clearKey s).doneIe = s.doneIe := rfl
@[simp] theorem clearKey_busy : (clearKey s).busy = s.busy := rfl
@[simp] theorem clearKey_done : (clearKey s).done = s.done := rfl
@[simp] theorem clearKey_err : (clearKey s).err = s.err := rfl
@[simp] theorem clearKey_ovr : (clearKey s).ovr = s.ovr := rfl
@[simp] theorem clearKey_errcode : (clearKey s).errcode = s.errcode := rfl
@[simp] theorem clearKey_cmdl : (clearKey s).cmdl = s.cmdl := rfl
@[simp] theorem clearKey_phase : (clearKey s).phase = s.phase := rfl
@[simp] theorem clearKey_pending : (clearKey s).pending = s.pending := rfl
@[simp] theorem clearKey_nblk : (clearKey s).nblk = s.nblk := rfl
@[simp] theorem clearKey_params : (clearKey s).params = s.params := rfl
@[simp] theorem clearKey_epoch : (clearKey s).epoch = s.epoch := rfl
@[simp] theorem clearKey_draws : (clearKey s).draws = s.draws := rfl
@[simp] theorem clearKey_resp : (clearKey s).resp = s.resp := rfl
@[simp] theorem clearKey_hostOps : (clearKey s).hostOps = s.hostOps := rfl
@[simp] theorem clearKey_turns : (clearKey s).turns = s.turns := rfl
@[simp] theorem clearKey_hostFailed : (clearKey s).hostFailed = s.hostFailed := rfl

/-! `installSchedule s` -/

@[simp] theorem installSchedule_key : (installSchedule s).key = s.key := rfl
@[simp] theorem installSchedule_kwmask : (installSchedule s).kwmask = s.kwmask := rfl
@[simp] theorem installSchedule_rk : (installSchedule s).rk = keyExpansion s.key := rfl
@[simp] theorem installSchedule_sv : (installSchedule s).sv = true := rfl
@[simp] theorem installSchedule_state : (installSchedule s).state = s.state := rfl
@[simp] theorem installSchedule_msg : (installSchedule s).msg = s.msg := rfl
@[simp] theorem installSchedule_len : (installSchedule s).len = s.len := rfl
@[simp] theorem installSchedule_outlen : (installSchedule s).outlen = s.outlen := rfl
@[simp] theorem installSchedule_doneIe : (installSchedule s).doneIe = s.doneIe := rfl
@[simp] theorem installSchedule_busy : (installSchedule s).busy = s.busy := rfl
@[simp] theorem installSchedule_done : (installSchedule s).done = s.done := rfl
@[simp] theorem installSchedule_err : (installSchedule s).err = s.err := rfl
@[simp] theorem installSchedule_ovr : (installSchedule s).ovr = s.ovr := rfl
@[simp] theorem installSchedule_errcode : (installSchedule s).errcode = s.errcode := rfl
@[simp] theorem installSchedule_cmdl : (installSchedule s).cmdl = s.cmdl := rfl
@[simp] theorem installSchedule_phase : (installSchedule s).phase = s.phase := rfl
@[simp] theorem installSchedule_pending : (installSchedule s).pending = s.pending := rfl
@[simp] theorem installSchedule_nblk : (installSchedule s).nblk = s.nblk := rfl
@[simp] theorem installSchedule_params : (installSchedule s).params = s.params := rfl
@[simp] theorem installSchedule_epoch : (installSchedule s).epoch = s.epoch := rfl
@[simp] theorem installSchedule_draws : (installSchedule s).draws = s.draws := rfl
@[simp] theorem installSchedule_resp : (installSchedule s).resp = s.resp := rfl
@[simp] theorem installSchedule_hostOps : (installSchedule s).hostOps = s.hostOps := rfl
@[simp] theorem installSchedule_turns : (installSchedule s).turns = s.turns := rfl
@[simp] theorem installSchedule_hostFailed : (installSchedule s).hostFailed = s.hostFailed := rfl

/-! `discardSchedule s` -/

@[simp] theorem discardSchedule_key : (discardSchedule s).key = s.key := rfl
@[simp] theorem discardSchedule_kwmask : (discardSchedule s).kwmask = s.kwmask := rfl
@[simp] theorem discardSchedule_rk : (discardSchedule s).rk = Schedule.zero := rfl
@[simp] theorem discardSchedule_sv : (discardSchedule s).sv = false := rfl
@[simp] theorem discardSchedule_state : (discardSchedule s).state = s.state := rfl
@[simp] theorem discardSchedule_msg : (discardSchedule s).msg = s.msg := rfl
@[simp] theorem discardSchedule_len : (discardSchedule s).len = s.len := rfl
@[simp] theorem discardSchedule_outlen : (discardSchedule s).outlen = s.outlen := rfl
@[simp] theorem discardSchedule_doneIe : (discardSchedule s).doneIe = s.doneIe := rfl
@[simp] theorem discardSchedule_busy : (discardSchedule s).busy = s.busy := rfl
@[simp] theorem discardSchedule_done : (discardSchedule s).done = s.done := rfl
@[simp] theorem discardSchedule_err : (discardSchedule s).err = s.err := rfl
@[simp] theorem discardSchedule_ovr : (discardSchedule s).ovr = s.ovr := rfl
@[simp] theorem discardSchedule_errcode : (discardSchedule s).errcode = s.errcode := rfl
@[simp] theorem discardSchedule_cmdl : (discardSchedule s).cmdl = s.cmdl := rfl
@[simp] theorem discardSchedule_phase : (discardSchedule s).phase = s.phase := rfl
@[simp] theorem discardSchedule_pending : (discardSchedule s).pending = s.pending := rfl
@[simp] theorem discardSchedule_nblk : (discardSchedule s).nblk = s.nblk := rfl
@[simp] theorem discardSchedule_params : (discardSchedule s).params = s.params := rfl
@[simp] theorem discardSchedule_epoch : (discardSchedule s).epoch = s.epoch := rfl
@[simp] theorem discardSchedule_draws : (discardSchedule s).draws = s.draws := rfl
@[simp] theorem discardSchedule_resp : (discardSchedule s).resp = s.resp := rfl
@[simp] theorem discardSchedule_hostOps : (discardSchedule s).hostOps = s.hostOps := rfl
@[simp] theorem discardSchedule_turns : (discardSchedule s).turns = s.turns := rfl
@[simp] theorem discardSchedule_hostFailed : (discardSchedule s).hostFailed = s.hostFailed := rfl

/-! `setState v s` -/

@[simp] theorem setState_key (v : Block) : (setState v s).key = s.key := rfl
@[simp] theorem setState_kwmask (v : Block) : (setState v s).kwmask = s.kwmask := rfl
@[simp] theorem setState_rk (v : Block) : (setState v s).rk = s.rk := rfl
@[simp] theorem setState_sv (v : Block) : (setState v s).sv = s.sv := rfl
@[simp] theorem setState_state (v : Block) : (setState v s).state = v := rfl
@[simp] theorem setState_msg (v : Block) : (setState v s).msg = s.msg := rfl
@[simp] theorem setState_len (v : Block) : (setState v s).len = s.len := rfl
@[simp] theorem setState_outlen (v : Block) : (setState v s).outlen = s.outlen := rfl
@[simp] theorem setState_doneIe (v : Block) : (setState v s).doneIe = s.doneIe := rfl
@[simp] theorem setState_busy (v : Block) : (setState v s).busy = s.busy := rfl
@[simp] theorem setState_done (v : Block) : (setState v s).done = s.done := rfl
@[simp] theorem setState_err (v : Block) : (setState v s).err = s.err := rfl
@[simp] theorem setState_ovr (v : Block) : (setState v s).ovr = s.ovr := rfl
@[simp] theorem setState_errcode (v : Block) : (setState v s).errcode = s.errcode := rfl
@[simp] theorem setState_cmdl (v : Block) : (setState v s).cmdl = s.cmdl := rfl
@[simp] theorem setState_phase (v : Block) : (setState v s).phase = s.phase := rfl
@[simp] theorem setState_pending (v : Block) : (setState v s).pending = s.pending := rfl
@[simp] theorem setState_nblk (v : Block) : (setState v s).nblk = s.nblk := rfl
@[simp] theorem setState_params (v : Block) : (setState v s).params = s.params := rfl
@[simp] theorem setState_epoch (v : Block) : (setState v s).epoch = s.epoch := rfl
@[simp] theorem setState_draws (v : Block) : (setState v s).draws = s.draws := rfl
@[simp] theorem setState_resp (v : Block) : (setState v s).resp = s.resp := rfl
@[simp] theorem setState_hostOps (v : Block) : (setState v s).hostOps = s.hostOps := rfl
@[simp] theorem setState_turns (v : Block) : (setState v s).turns = s.turns := rfl
@[simp] theorem setState_hostFailed (v : Block) : (setState v s).hostFailed = s.hostFailed := rfl

/-! `setOutlen n s` -/

@[simp] theorem setOutlen_key (n : Nat) : (setOutlen n s).key = s.key := rfl
@[simp] theorem setOutlen_kwmask (n : Nat) : (setOutlen n s).kwmask = s.kwmask := rfl
@[simp] theorem setOutlen_rk (n : Nat) : (setOutlen n s).rk = s.rk := rfl
@[simp] theorem setOutlen_sv (n : Nat) : (setOutlen n s).sv = s.sv := rfl
@[simp] theorem setOutlen_state (n : Nat) : (setOutlen n s).state = s.state := rfl
@[simp] theorem setOutlen_msg (n : Nat) : (setOutlen n s).msg = s.msg := rfl
@[simp] theorem setOutlen_len (n : Nat) : (setOutlen n s).len = s.len := rfl
@[simp] theorem setOutlen_outlen (n : Nat) : (setOutlen n s).outlen = BitVec.ofNat 13 n := rfl
@[simp] theorem setOutlen_doneIe (n : Nat) : (setOutlen n s).doneIe = s.doneIe := rfl
@[simp] theorem setOutlen_busy (n : Nat) : (setOutlen n s).busy = s.busy := rfl
@[simp] theorem setOutlen_done (n : Nat) : (setOutlen n s).done = s.done := rfl
@[simp] theorem setOutlen_err (n : Nat) : (setOutlen n s).err = s.err := rfl
@[simp] theorem setOutlen_ovr (n : Nat) : (setOutlen n s).ovr = s.ovr := rfl
@[simp] theorem setOutlen_errcode (n : Nat) : (setOutlen n s).errcode = s.errcode := rfl
@[simp] theorem setOutlen_cmdl (n : Nat) : (setOutlen n s).cmdl = s.cmdl := rfl
@[simp] theorem setOutlen_phase (n : Nat) : (setOutlen n s).phase = s.phase := rfl
@[simp] theorem setOutlen_pending (n : Nat) : (setOutlen n s).pending = s.pending := rfl
@[simp] theorem setOutlen_nblk (n : Nat) : (setOutlen n s).nblk = s.nblk := rfl
@[simp] theorem setOutlen_params (n : Nat) : (setOutlen n s).params = s.params := rfl
@[simp] theorem setOutlen_epoch (n : Nat) : (setOutlen n s).epoch = s.epoch := rfl
@[simp] theorem setOutlen_draws (n : Nat) : (setOutlen n s).draws = s.draws := rfl
@[simp] theorem setOutlen_resp (n : Nat) : (setOutlen n s).resp = s.resp := rfl
@[simp] theorem setOutlen_hostOps (n : Nat) : (setOutlen n s).hostOps = s.hostOps := rfl
@[simp] theorem setOutlen_turns (n : Nat) : (setOutlen n s).turns = s.turns := rfl
@[simp] theorem setOutlen_hostFailed (n : Nat) : (setOutlen n s).hostFailed = s.hostFailed := rfl

/-! `respond r s` -/

@[simp] theorem respond_key (r : Response) : (respond r s).key = s.key := rfl
@[simp] theorem respond_kwmask (r : Response) : (respond r s).kwmask = s.kwmask := rfl
@[simp] theorem respond_rk (r : Response) : (respond r s).rk = s.rk := rfl
@[simp] theorem respond_sv (r : Response) : (respond r s).sv = s.sv := rfl
@[simp] theorem respond_state (r : Response) : (respond r s).state = s.state := rfl
@[simp] theorem respond_msg (r : Response) : (respond r s).msg = s.msg := rfl
@[simp] theorem respond_len (r : Response) : (respond r s).len = s.len := rfl
@[simp] theorem respond_outlen (r : Response) : (respond r s).outlen = s.outlen := rfl
@[simp] theorem respond_doneIe (r : Response) : (respond r s).doneIe = s.doneIe := rfl
@[simp] theorem respond_busy (r : Response) : (respond r s).busy = s.busy := rfl
@[simp] theorem respond_done (r : Response) : (respond r s).done = s.done := rfl
@[simp] theorem respond_err (r : Response) : (respond r s).err = s.err := rfl
@[simp] theorem respond_ovr (r : Response) : (respond r s).ovr = s.ovr := rfl
@[simp] theorem respond_errcode (r : Response) : (respond r s).errcode = s.errcode := rfl
@[simp] theorem respond_cmdl (r : Response) : (respond r s).cmdl = s.cmdl := rfl
@[simp] theorem respond_phase (r : Response) : (respond r s).phase = s.phase := rfl
@[simp] theorem respond_pending (r : Response) : (respond r s).pending = s.pending := rfl
@[simp] theorem respond_nblk (r : Response) : (respond r s).nblk = s.nblk := rfl
@[simp] theorem respond_params (r : Response) : (respond r s).params = s.params := rfl
@[simp] theorem respond_epoch (r : Response) : (respond r s).epoch = s.epoch := rfl
@[simp] theorem respond_draws (r : Response) : (respond r s).draws = s.draws := rfl
@[simp] theorem respond_resp (r : Response) : (respond r s).resp = r := rfl
@[simp] theorem respond_hostOps (r : Response) : (respond r s).hostOps = s.hostOps := rfl
@[simp] theorem respond_turns (r : Response) : (respond r s).turns = s.turns := rfl
@[simp] theorem respond_hostFailed (r : Response) : (respond r s).hostFailed = s.hostFailed := rfl

/-! `countDraw s` -/

@[simp] theorem countDraw_key : (countDraw s).key = s.key := rfl
@[simp] theorem countDraw_kwmask : (countDraw s).kwmask = s.kwmask := rfl
@[simp] theorem countDraw_rk : (countDraw s).rk = s.rk := rfl
@[simp] theorem countDraw_sv : (countDraw s).sv = s.sv := rfl
@[simp] theorem countDraw_state : (countDraw s).state = s.state := rfl
@[simp] theorem countDraw_msg : (countDraw s).msg = s.msg := rfl
@[simp] theorem countDraw_len : (countDraw s).len = s.len := rfl
@[simp] theorem countDraw_outlen : (countDraw s).outlen = s.outlen := rfl
@[simp] theorem countDraw_doneIe : (countDraw s).doneIe = s.doneIe := rfl
@[simp] theorem countDraw_busy : (countDraw s).busy = s.busy := rfl
@[simp] theorem countDraw_done : (countDraw s).done = s.done := rfl
@[simp] theorem countDraw_err : (countDraw s).err = s.err := rfl
@[simp] theorem countDraw_ovr : (countDraw s).ovr = s.ovr := rfl
@[simp] theorem countDraw_errcode : (countDraw s).errcode = s.errcode := rfl
@[simp] theorem countDraw_cmdl : (countDraw s).cmdl = s.cmdl := rfl
@[simp] theorem countDraw_phase : (countDraw s).phase = s.phase := rfl
@[simp] theorem countDraw_pending : (countDraw s).pending = s.pending := rfl
@[simp] theorem countDraw_nblk : (countDraw s).nblk = s.nblk := rfl
@[simp] theorem countDraw_params : (countDraw s).params = s.params := rfl
@[simp] theorem countDraw_epoch : (countDraw s).epoch = s.epoch := rfl
@[simp] theorem countDraw_draws : (countDraw s).draws = s.draws + 1 := rfl
@[simp] theorem countDraw_resp : (countDraw s).resp = s.resp := rfl
@[simp] theorem countDraw_hostOps : (countDraw s).hostOps = s.hostOps := rfl
@[simp] theorem countDraw_turns : (countDraw s).turns = s.turns := rfl
@[simp] theorem countDraw_hostFailed : (countDraw s).hostFailed = s.hostFailed := rfl

/-! `s.memWrite a v` -/

@[simp] theorem memWrite_key (a : Nat) (v : List Byte) : (s.memWrite a v).key = s.key := rfl
@[simp] theorem memWrite_kwmask (a : Nat) (v : List Byte) : (s.memWrite a v).kwmask = s.kwmask := rfl
@[simp] theorem memWrite_rk (a : Nat) (v : List Byte) : (s.memWrite a v).rk = s.rk := rfl
@[simp] theorem memWrite_sv (a : Nat) (v : List Byte) : (s.memWrite a v).sv = s.sv := rfl
@[simp] theorem memWrite_state (a : Nat) (v : List Byte) : (s.memWrite a v).state = s.state := rfl
@[simp] theorem memWrite_msg (a : Nat) (v : List Byte) : (s.memWrite a v).msg = Memory.writeList s.msg a v := rfl
@[simp] theorem memWrite_len (a : Nat) (v : List Byte) : (s.memWrite a v).len = s.len := rfl
@[simp] theorem memWrite_outlen (a : Nat) (v : List Byte) : (s.memWrite a v).outlen = s.outlen := rfl
@[simp] theorem memWrite_doneIe (a : Nat) (v : List Byte) : (s.memWrite a v).doneIe = s.doneIe := rfl
@[simp] theorem memWrite_busy (a : Nat) (v : List Byte) : (s.memWrite a v).busy = s.busy := rfl
@[simp] theorem memWrite_done (a : Nat) (v : List Byte) : (s.memWrite a v).done = s.done := rfl
@[simp] theorem memWrite_err (a : Nat) (v : List Byte) : (s.memWrite a v).err = s.err := rfl
@[simp] theorem memWrite_ovr (a : Nat) (v : List Byte) : (s.memWrite a v).ovr = s.ovr := rfl
@[simp] theorem memWrite_errcode (a : Nat) (v : List Byte) : (s.memWrite a v).errcode = s.errcode := rfl
@[simp] theorem memWrite_cmdl (a : Nat) (v : List Byte) : (s.memWrite a v).cmdl = s.cmdl := rfl
@[simp] theorem memWrite_phase (a : Nat) (v : List Byte) : (s.memWrite a v).phase = s.phase := rfl
@[simp] theorem memWrite_pending (a : Nat) (v : List Byte) : (s.memWrite a v).pending = s.pending := rfl
@[simp] theorem memWrite_nblk (a : Nat) (v : List Byte) : (s.memWrite a v).nblk = s.nblk := rfl
@[simp] theorem memWrite_params (a : Nat) (v : List Byte) : (s.memWrite a v).params = s.params := rfl
@[simp] theorem memWrite_epoch (a : Nat) (v : List Byte) : (s.memWrite a v).epoch = s.epoch := rfl
@[simp] theorem memWrite_draws (a : Nat) (v : List Byte) : (s.memWrite a v).draws = s.draws := rfl
@[simp] theorem memWrite_resp (a : Nat) (v : List Byte) : (s.memWrite a v).resp = s.resp := rfl
@[simp] theorem memWrite_hostOps (a : Nat) (v : List Byte) : (s.memWrite a v).hostOps = s.hostOps := rfl
@[simp] theorem memWrite_turns (a : Nat) (v : List Byte) : (s.memWrite a v).turns = s.turns := rfl
@[simp] theorem memWrite_hostFailed (a : Nat) (v : List Byte) : (s.memWrite a v).hostFailed = s.hostFailed := rfl

/-! `s.writeBlock b v` -/

@[simp] theorem writeBlock_key (b : Nat) (v : Block) : (s.writeBlock b v).key = s.key := rfl
@[simp] theorem writeBlock_kwmask (b : Nat) (v : Block) : (s.writeBlock b v).kwmask = s.kwmask := rfl
@[simp] theorem writeBlock_rk (b : Nat) (v : Block) : (s.writeBlock b v).rk = s.rk := rfl
@[simp] theorem writeBlock_sv (b : Nat) (v : Block) : (s.writeBlock b v).sv = s.sv := rfl
@[simp] theorem writeBlock_state (b : Nat) (v : Block) : (s.writeBlock b v).state = s.state := rfl
@[simp] theorem writeBlock_msg (b : Nat) (v : Block) : (s.writeBlock b v).msg = Memory.writeList s.msg (16 * b) v.toList := rfl
@[simp] theorem writeBlock_len (b : Nat) (v : Block) : (s.writeBlock b v).len = s.len := rfl
@[simp] theorem writeBlock_outlen (b : Nat) (v : Block) : (s.writeBlock b v).outlen = s.outlen := rfl
@[simp] theorem writeBlock_doneIe (b : Nat) (v : Block) : (s.writeBlock b v).doneIe = s.doneIe := rfl
@[simp] theorem writeBlock_busy (b : Nat) (v : Block) : (s.writeBlock b v).busy = s.busy := rfl
@[simp] theorem writeBlock_done (b : Nat) (v : Block) : (s.writeBlock b v).done = s.done := rfl
@[simp] theorem writeBlock_err (b : Nat) (v : Block) : (s.writeBlock b v).err = s.err := rfl
@[simp] theorem writeBlock_ovr (b : Nat) (v : Block) : (s.writeBlock b v).ovr = s.ovr := rfl
@[simp] theorem writeBlock_errcode (b : Nat) (v : Block) : (s.writeBlock b v).errcode = s.errcode := rfl
@[simp] theorem writeBlock_cmdl (b : Nat) (v : Block) : (s.writeBlock b v).cmdl = s.cmdl := rfl
@[simp] theorem writeBlock_phase (b : Nat) (v : Block) : (s.writeBlock b v).phase = s.phase := rfl
@[simp] theorem writeBlock_pending (b : Nat) (v : Block) : (s.writeBlock b v).pending = s.pending := rfl
@[simp] theorem writeBlock_nblk (b : Nat) (v : Block) : (s.writeBlock b v).nblk = s.nblk := rfl
@[simp] theorem writeBlock_params (b : Nat) (v : Block) : (s.writeBlock b v).params = s.params := rfl
@[simp] theorem writeBlock_epoch (b : Nat) (v : Block) : (s.writeBlock b v).epoch = s.epoch := rfl
@[simp] theorem writeBlock_draws (b : Nat) (v : Block) : (s.writeBlock b v).draws = s.draws := rfl
@[simp] theorem writeBlock_resp (b : Nat) (v : Block) : (s.writeBlock b v).resp = s.resp := rfl
@[simp] theorem writeBlock_hostOps (b : Nat) (v : Block) : (s.writeBlock b v).hostOps = s.hostOps := rfl
@[simp] theorem writeBlock_turns (b : Nat) (v : Block) : (s.writeBlock b v).turns = s.turns := rfl
@[simp] theorem writeBlock_hostFailed (b : Nat) (v : Block) : (s.writeBlock b v).hostFailed = s.hostFailed := rfl

/-! `takeTurn s` -/

@[simp] theorem takeTurn_key : (takeTurn s).key = s.key := rfl
@[simp] theorem takeTurn_kwmask : (takeTurn s).kwmask = s.kwmask := rfl
@[simp] theorem takeTurn_rk : (takeTurn s).rk = s.rk := rfl
@[simp] theorem takeTurn_sv : (takeTurn s).sv = s.sv := rfl
@[simp] theorem takeTurn_state : (takeTurn s).state = s.state := rfl
@[simp] theorem takeTurn_msg : (takeTurn s).msg = s.msg := rfl
@[simp] theorem takeTurn_len : (takeTurn s).len = s.len := rfl
@[simp] theorem takeTurn_outlen : (takeTurn s).outlen = s.outlen := rfl
@[simp] theorem takeTurn_doneIe : (takeTurn s).doneIe = s.doneIe := rfl
@[simp] theorem takeTurn_busy : (takeTurn s).busy = s.busy := rfl
@[simp] theorem takeTurn_done : (takeTurn s).done = s.done := rfl
@[simp] theorem takeTurn_err : (takeTurn s).err = s.err := rfl
@[simp] theorem takeTurn_ovr : (takeTurn s).ovr = s.ovr := rfl
@[simp] theorem takeTurn_errcode : (takeTurn s).errcode = s.errcode := rfl
@[simp] theorem takeTurn_cmdl : (takeTurn s).cmdl = s.cmdl := rfl
@[simp] theorem takeTurn_phase : (takeTurn s).phase = s.phase := rfl
@[simp] theorem takeTurn_pending : (takeTurn s).pending = s.pending := rfl
@[simp] theorem takeTurn_nblk : (takeTurn s).nblk = s.nblk := rfl
@[simp] theorem takeTurn_params : (takeTurn s).params = s.params := rfl
@[simp] theorem takeTurn_epoch : (takeTurn s).epoch = s.epoch := rfl
@[simp] theorem takeTurn_resp : (takeTurn s).resp = s.resp := rfl
@[simp] theorem takeTurn_hostOps : (takeTurn s).hostOps = s.hostOps := rfl
@[simp] theorem takeTurn_turns : (takeTurn s).turns = (turnsAhead s).tail := rfl
@[simp] theorem takeTurn_hostFailed : (takeTurn s).hostFailed = s.hostFailed := rfl

/-! `fetchWord s d` -/

@[simp] theorem fetchWord_key (d : Word) : (fetchWord s d).key = s.key := rfl
@[simp] theorem fetchWord_kwmask (d : Word) : (fetchWord s d).kwmask = s.kwmask := rfl
@[simp] theorem fetchWord_rk (d : Word) : (fetchWord s d).rk = s.rk := rfl
@[simp] theorem fetchWord_sv (d : Word) : (fetchWord s d).sv = s.sv := rfl
@[simp] theorem fetchWord_state (d : Word) : (fetchWord s d).state = s.state := rfl
@[simp] theorem fetchWord_msg (d : Word) : (fetchWord s d).msg = s.msg := rfl
@[simp] theorem fetchWord_len (d : Word) : (fetchWord s d).len = s.len := rfl
@[simp] theorem fetchWord_outlen (d : Word) : (fetchWord s d).outlen = s.outlen := rfl
@[simp] theorem fetchWord_doneIe (d : Word) : (fetchWord s d).doneIe = s.doneIe := rfl
@[simp] theorem fetchWord_busy (d : Word) : (fetchWord s d).busy = true := rfl
@[simp] theorem fetchWord_done (d : Word) : (fetchWord s d).done = false := rfl
@[simp] theorem fetchWord_err (d : Word) : (fetchWord s d).err = false := rfl
@[simp] theorem fetchWord_ovr (d : Word) : (fetchWord s d).ovr = s.ovr := rfl
@[simp] theorem fetchWord_errcode (d : Word) : (fetchWord s d).errcode = 0 := rfl
@[simp] theorem fetchWord_cmdl (d : Word) : (fetchWord s d).cmdl = d := rfl
@[simp] theorem fetchWord_phase (d : Word) : (fetchWord s d).phase = .exec := rfl
@[simp] theorem fetchWord_pending (d : Word) : (fetchWord s d).pending = s.pending := rfl
@[simp] theorem fetchWord_nblk (d : Word) : (fetchWord s d).nblk = s.nblk := rfl
@[simp] theorem fetchWord_params (d : Word) : (fetchWord s d).params = s.params := rfl
@[simp] theorem fetchWord_epoch (d : Word) : (fetchWord s d).epoch = s.epoch := rfl
@[simp] theorem fetchWord_draws (d : Word) : (fetchWord s d).draws = s.draws := rfl
@[simp] theorem fetchWord_resp (d : Word) : (fetchWord s d).resp = s.resp := rfl
@[simp] theorem fetchWord_hostOps (d : Word) : (fetchWord s d).hostOps = s.hostOps := rfl
@[simp] theorem fetchWord_turns (d : Word) : (fetchWord s d).turns = .core :: s.turns := rfl
@[simp] theorem fetchWord_hostFailed (d : Word) : (fetchWord s d).hostFailed = s.hostFailed := rfl

/-! `resetCore s` -/

@[simp] theorem resetCore_key : (resetCore s).key = Block.zero := rfl
@[simp] theorem resetCore_kwmask : (resetCore s).kwmask = 0 := rfl
@[simp] theorem resetCore_rk : (resetCore s).rk = Schedule.zero := rfl
@[simp] theorem resetCore_sv : (resetCore s).sv = false := rfl
@[simp] theorem resetCore_state : (resetCore s).state = Block.zero := rfl
@[simp] theorem resetCore_msg : (resetCore s).msg = [] := rfl
@[simp] theorem resetCore_len : (resetCore s).len = 0 := rfl
@[simp] theorem resetCore_outlen : (resetCore s).outlen = 0 := rfl
@[simp] theorem resetCore_doneIe : (resetCore s).doneIe = false := rfl
@[simp] theorem resetCore_busy : (resetCore s).busy = false := rfl
@[simp] theorem resetCore_done : (resetCore s).done = false := rfl
@[simp] theorem resetCore_err : (resetCore s).err = false := rfl
@[simp] theorem resetCore_ovr : (resetCore s).ovr = false := rfl
@[simp] theorem resetCore_errcode : (resetCore s).errcode = 0 := rfl
@[simp] theorem resetCore_cmdl : (resetCore s).cmdl = 0 := rfl
@[simp] theorem resetCore_phase : (resetCore s).phase = .idle := rfl
@[simp] theorem resetCore_pending : (resetCore s).pending = [] := rfl
@[simp] theorem resetCore_nblk : (resetCore s).nblk = 0 := rfl
@[simp] theorem resetCore_params : (resetCore s).params = s.params := rfl
@[simp] theorem resetCore_epoch : (resetCore s).epoch = s.draws + 1 := rfl
@[simp] theorem resetCore_draws : (resetCore s).draws = s.draws + 1 := rfl
@[simp] theorem resetCore_resp : (resetCore s).resp = s.resp := rfl
@[simp] theorem resetCore_hostOps : (resetCore s).hostOps = s.hostOps := rfl
@[simp] theorem resetCore_turns : (resetCore s).turns = s.turns := rfl
@[simp] theorem resetCore_hostFailed : (resetCore s).hostFailed = s.hostFailed := rfl

/-! `startJob s` -/

@[simp] theorem startJob_key : (startJob s).key = Block.zero := rfl
@[simp] theorem startJob_kwmask : (startJob s).kwmask = 0 := rfl
@[simp] theorem startJob_rk : (startJob s).rk = keyExpansion s.key := rfl
@[simp] theorem startJob_sv : (startJob s).sv = true := rfl
@[simp] theorem startJob_state : (startJob s).state = s.state := rfl
@[simp] theorem startJob_msg : (startJob s).msg = s.msg := rfl
@[simp] theorem startJob_len : (startJob s).len = s.len := rfl
@[simp] theorem startJob_outlen : (startJob s).outlen = s.outlen := rfl
@[simp] theorem startJob_doneIe : (startJob s).doneIe = s.doneIe := rfl
@[simp] theorem startJob_busy : (startJob s).busy = s.busy := rfl
@[simp] theorem startJob_done : (startJob s).done = s.done := rfl
@[simp] theorem startJob_err : (startJob s).err = s.err := rfl
@[simp] theorem startJob_ovr : (startJob s).ovr = s.ovr := rfl
@[simp] theorem startJob_errcode : (startJob s).errcode = s.errcode := rfl
@[simp] theorem startJob_cmdl : (startJob s).cmdl = s.cmdl := rfl
@[simp] theorem startJob_phase : (startJob s).phase = .ecbBlocks := rfl
@[simp] theorem startJob_pending : (startJob s).pending = List.range (s.len.toNat / 16) := rfl
@[simp] theorem startJob_nblk : (startJob s).nblk = s.len.toNat / 16 := rfl
@[simp] theorem startJob_params : (startJob s).params = s.params := rfl
@[simp] theorem startJob_epoch : (startJob s).epoch = s.epoch := rfl
@[simp] theorem startJob_draws : (startJob s).draws = s.draws := rfl
@[simp] theorem startJob_resp : (startJob s).resp = s.resp := rfl
@[simp] theorem startJob_hostOps : (startJob s).hostOps = s.hostOps := rfl
@[simp] theorem startJob_turns : (startJob s).turns = s.turns := rfl
@[simp] theorem startJob_hostFailed : (startJob s).hostFailed = s.hostFailed := rfl

/-- MSG reads alike in two states with the same bytes written since the same reset. -/
theorem State.msgByte_congr {s t : State} (hm : t.msg = s.msg) (he : t.epoch = s.epoch) (x : Nat) :
    t.msgByte x = s.msgByte x := by
  simp only [State.msgByte, hm, he]

/-! `blockDone b s` -/

@[simp] theorem blockDone_key (b : Nat) : (blockDone b s).key = s.key := by
  unfold blockDone; rfl
@[simp] theorem blockDone_kwmask (b : Nat) : (blockDone b s).kwmask = s.kwmask := by
  unfold blockDone; rfl
@[simp] theorem blockDone_rk (b : Nat) : (blockDone b s).rk = s.rk := by
  unfold blockDone; rfl
@[simp] theorem blockDone_sv (b : Nat) : (blockDone b s).sv = s.sv := by
  unfold blockDone; rfl
@[simp] theorem blockDone_state (b : Nat) : (blockDone b s).state = s.state := by
  unfold blockDone; rfl
theorem blockDone_msg (b : Nat) :
    (blockDone b s).msg = (s.writeBlock b (invCipher (s.readBlock b) s.rk)).msg := by
  unfold blockDone; rfl
@[simp] theorem blockDone_len (b : Nat) : (blockDone b s).len = s.len := by
  unfold blockDone; rfl
@[simp] theorem blockDone_outlen (b : Nat) : (blockDone b s).outlen = s.outlen := by
  unfold blockDone; rfl
@[simp] theorem blockDone_doneIe (b : Nat) : (blockDone b s).doneIe = s.doneIe := by
  unfold blockDone; rfl
@[simp] theorem blockDone_busy (b : Nat) : (blockDone b s).busy = s.busy := by
  unfold blockDone; rfl
@[simp] theorem blockDone_done (b : Nat) : (blockDone b s).done = s.done := by
  unfold blockDone; rfl
@[simp] theorem blockDone_err (b : Nat) : (blockDone b s).err = s.err := by
  unfold blockDone; rfl
@[simp] theorem blockDone_ovr (b : Nat) : (blockDone b s).ovr = s.ovr := by
  unfold blockDone; rfl
@[simp] theorem blockDone_errcode (b : Nat) : (blockDone b s).errcode = s.errcode := by
  unfold blockDone; rfl
@[simp] theorem blockDone_cmdl (b : Nat) : (blockDone b s).cmdl = s.cmdl := by
  unfold blockDone; rfl
@[simp] theorem blockDone_phase (b : Nat) : (blockDone b s).phase =
    if (s.pending.erase b).isEmpty then .ecbFinish else .ecbBlocks := by
  unfold blockDone; rfl
@[simp] theorem blockDone_pending (b : Nat) : (blockDone b s).pending = s.pending.erase b := by
  unfold blockDone; rfl
@[simp] theorem blockDone_nblk (b : Nat) : (blockDone b s).nblk = s.nblk := by
  unfold blockDone; rfl
@[simp] theorem blockDone_params (b : Nat) : (blockDone b s).params = s.params := by
  unfold blockDone; rfl
@[simp] theorem blockDone_epoch (b : Nat) : (blockDone b s).epoch = s.epoch := by
  unfold blockDone; rfl
@[simp] theorem blockDone_draws (b : Nat) : (blockDone b s).draws = s.draws := by
  unfold blockDone; rfl
@[simp] theorem blockDone_resp (b : Nat) : (blockDone b s).resp = s.resp := by
  unfold blockDone; rfl
@[simp] theorem blockDone_hostOps (b : Nat) : (blockDone b s).hostOps = s.hostOps := by
  unfold blockDone; rfl
@[simp] theorem blockDone_turns (b : Nat) : (blockDone b s).turns = s.turns := by
  unfold blockDone; rfl
@[simp] theorem blockDone_hostFailed (b : Nat) : (blockDone b s).hostFailed = s.hostFailed := by
  unfold blockDone; rfl

theorem blockDone_msgByte (b x : Nat) : (blockDone b s).msgByte x =
    (s.writeBlock b (invCipher (s.readBlock b) s.rk)).msgByte x :=
  State.msgByte_congr (blockDone_msg s b) (blockDone_epoch s b) x

/-! Reading MSG through an update that does not write it. -/

@[simp] theorem acceptCommand_msgByte (d : Word) (x : Nat) : (acceptCommand d s).msgByte x = s.msgByte x := rfl
@[simp] theorem finish_msgByte (e : Option CmdError) (x : Nat) : (finish e s).msgByte x = s.msgByte x := rfl
@[simp] theorem raise_msgByte (e : CmdError) (x : Nat) : (raise e s).msgByte x = s.msgByte x := rfl
@[simp] theorem clearStatus_msgByte (d : Word) (x : Nat) : (clearStatus d s).msgByte x = s.msgByte x := rfl
@[simp] theorem overrun_msgByte (x : Nat) : (overrun s).msgByte x = s.msgByte x := rfl
@[simp] theorem clearKey_msgByte (x : Nat) : (clearKey s).msgByte x = s.msgByte x := rfl
@[simp] theorem installSchedule_msgByte (x : Nat) : (installSchedule s).msgByte x = s.msgByte x := rfl
@[simp] theorem discardSchedule_msgByte (x : Nat) : (discardSchedule s).msgByte x = s.msgByte x := rfl
@[simp] theorem setState_msgByte (v : Block) (x : Nat) : (setState v s).msgByte x = s.msgByte x := rfl
@[simp] theorem setOutlen_msgByte (n : Nat) (x : Nat) : (setOutlen n s).msgByte x = s.msgByte x := rfl
@[simp] theorem respond_msgByte (r : Response) (x : Nat) : (respond r s).msgByte x = s.msgByte x := rfl
@[simp] theorem countDraw_msgByte (x : Nat) : (countDraw s).msgByte x = s.msgByte x := rfl
@[simp] theorem takeTurn_msgByte (x : Nat) : (takeTurn s).msgByte x = s.msgByte x := rfl
@[simp] theorem startJob_msgByte (x : Nat) : (startJob s).msgByte x = s.msgByte x := rfl
@[simp] theorem fetchWord_msgByte (d : Word) (x : Nat) : (fetchWord s d).msgByte x = s.msgByte x := rfl

/-- After a reset every byte of MSG is the free value drawn for it (R280; log 4). -/
@[simp] theorem resetCore_msgByte (x : Nat) :
    (resetCore s).msgByte x = Config.resetByte (s.draws + 1) x := rfl

end Sys2Proof.Machine
end

