-- ==== Sys2Proof/Laws/Ops.lean ====
section
/-! SUPPORT. What each shared operation and each agent's step can do, said once. -/

namespace Sys2Proof.Machine

/-! ### Decode and the window map -/

/-- Decode never gives a bus operation: those have no command word. -/
theorem decode_ok_command {w : Word} {i : Instr} (h : decode w = .ok i) :
    (∀ off, i ≠ .rd off) ∧ ∀ off d be, i ≠ .wr off d be := by
  unfold decode decodeFields withoutOperand at h
  split at h
  · cases h
  · split at h <;> first
      | (split at h <;> cases h <;> exact ⟨fun _ => nofun, fun _ _ _ => nofun⟩)
      | (cases h; exact ⟨fun _ => nofun, fun _ _ _ => nofun⟩)
      | cases h

/-- The window map (R61) read backwards: which offsets name a register. -/
theorem regAt_cases (p : Params) (off : Offset) :
    (regAt p off = .id ∧ off.toNat = 0x000) ∨ (regAt p off = .param ∧ off.toNat = 0x004) ∨
    (regAt p off = .cmd ∧ off.toNat = 0x008) ∨ (regAt p off = .status ∧ off.toNat = 0x00C) ∨
    (regAt p off = .len ∧ off.toNat = 0x010) ∨ (regAt p off = .outlen ∧ off.toNat = 0x014) ∨
    (regAt p off = .inten ∧ off.toNat = 0x018) ∨
    (∃ j, regAt p off = .key j ∧ 0x020 ≤ off.toNat ∧ off.toNat < 0x030) ∨
    (∃ j, regAt p off = .state j ∧ 0x030 ≤ off.toNat ∧ off.toNat < 0x040) ∨
    (∃ j, regAt p off = .rk j ∧ 0x100 ≤ off.toNat ∧ off.toNat < 0x1B0) ∨
    (regAt p off = .msg (off.toNat - 0x1000) ∧ 0x1000 ≤ off.toNat ∧
      off.toNat - 0x1000 < p.msgBytes) ∨
    regAt p off = .unassigned := by
  unfold regAt
  simp only
  split
  · unfold lowReg
    split <;> simp_all
  · split_ifs <;> (simp_all; try omega)

/-! ### The bus -/

/-- Everything a write can do (R76, R78, R83). -/
theorem execWr_cases {off : Offset} {d : Word} {be : BitVec 4} {s t : State}
    (h : exec (.wr off d be) s = .next t) :
    ((aligned off && fullWord be) = false ∧ t = respond .writeErr s) ∨
    ((aligned off && fullWord be) = true ∧ s.busy = true ∧
      (regAt s.params off).isProtected = true ∧ t = respond .writeOk (overrun s)) ∨
    ((aligned off && fullWord be) = true ∧
      (s.busy = false ∨ (regAt s.params off).isProtected = false) ∧
      t = respond .writeOk (writeRegIdle (regAt s.params off) d s)) := by
  have e : exec (.wr off d be) s = execWr off d be s := rfl
  rw [e] at h
  unfold execWr writeReg at h
  cases ha : (aligned off && fullWord be) with
  | false => simp [ha] at h; exact .inl ⟨rfl, h.symm⟩
  | true =>
    right
    simp only [ha, if_true] at h
    cases hb : s.busy <;> cases hp : (regAt s.params off).isProtected <;>
      simp [hb, hp] at h <;> simp [h]

/-- Everything a read can do: the response and the count of draws (R77, R80). -/
theorem execRd_cases {off : Offset} {s t : State} (h : exec (.rd off) s = .next t) :
    ∃ r, t = respond r (countDraw s) := by
  have e : exec (.rd off) s = execRd off s := rfl
  rw [e] at h
  unfold execRd at h
  exact ⟨_, (Host.Outcome.next.inj h).symm⟩

/-! ### The turns of the agents -/

/-- There is always a turn to come. -/
theorem turnsAhead_ne_nil (s : State) : turnsAhead s ≠ [] := by
  unfold turnsAhead
  split <;> simp [drawnTurns]

/-- A free draw of turns has one of the core's among them (R289). -/
theorem core_mem_drawnTurns (n : Nat) : Agent.core ∈ drawnTurns n := by simp [drawnTurns]

/-- Everything a taken turn can be: the agent chosen, then the rest of the turns to come. -/
theorem turnsAhead_eq (s : State) : turnsAhead s = agentChosen s :: (takeTurn s).turns := by
  cases h : turnsAhead s with
  | nil => exact absurd h (turnsAhead_ne_nil s)
  | cons a ts => simp [agentChosen, h]

/-! ### The steps of the agents -/

/-- `exec` answers a next state for every instruction in every state. -/
theorem exec_answers (i : Instr) (s : State) : ∃ t, exec i s = .next t := by
  cases i <;> exact ⟨_, rfl⟩

/-- Everything a line of the host or the environment can do. -/
theorem hostStep_cases {l : HostLine} {s t : State} (h : hostStep l s = .next t) :
    (l = .rst ∧ t = resetCore s) ∨
    (∃ off d be, l = .wr off d be ∧ exec (.wr off d be) s = .next t) ∨
    (∃ r ls f, t = { s with resp := r, draws := s.draws + 1, hostOps := ls, hostFailed := f }) := by
  unfold hostStep at h
  split at h
  · obtain ⟨r, rfl⟩ := execRd_cases h
    exact .inr (.inr ⟨r, _, _, rfl⟩)
  · exact .inr (.inl ⟨_, _, _, rfl, h⟩)
  · obtain ⟨u, hu⟩ := exec_answers (.rd offsetStatus) s
    obtain ⟨r, rfl⟩ := execRd_cases hu
    rw [hu] at h
    simp only [thenNext, Host.Outcome.next.injEq] at h
    subst h
    unfold afterWait
    split
    · split <;> exact .inr (.inr ⟨r, _, _, rfl⟩)
    · exact .inr (.inr ⟨r, _, _, rfl⟩)
  · rename_i off value
    obtain ⟨u, hu⟩ := exec_answers (.rd off) s
    obtain ⟨r, rfl⟩ := execRd_cases hu
    rw [hu] at h
    simp only [thenNext, Host.Outcome.next.injEq] at h
    subst h
    unfold afterExpect
    split <;> exact .inr (.inr ⟨r, _, _, rfl⟩)
  · exact .inl ⟨rfl, (Host.Outcome.next.inj h).symm⟩

/-- A line of the host is always answered. -/
theorem hostStep_answers (l : HostLine) (s : State) : ∃ t, hostStep l s = .next t := by
  unfold hostStep
  split
  · exact exec_answers _ _
  · exact exec_answers _ _
  · obtain ⟨u, hu⟩ := exec_answers (.rd offsetStatus) s
    exact ⟨_, by rw [hu]; rfl⟩
  · rename_i off _
    obtain ⟨u, hu⟩ := exec_answers (.rd off) s
    exact ⟨_, by rw [hu]; rfl⟩
  · exact ⟨_, rfl⟩

/-- Everything the block step on a chosen block can do (R202). -/
theorem decryptBlock_cases {b : Nat} {s t : State} (h : decryptBlock b s = .next t) :
    b < s.params.msgBlocks ∧ t = blockDone b s := by
  unfold decryptBlock blockInRange at h
  by_cases hb : b < s.params.msgBlocks
  · simp only [hb, decide_true, if_true, Host.Outcome.next.injEq] at h
    exact ⟨hb, h.symm⟩
  · simp [hb] at h

/-- Everything a core step can do, by PHASE (R97). -/
theorem coreStep_cases {s t : State} (h : coreStep s = .next t) :
    (s.phase = .exec ∧ (∃ i, decode s.cmdl = .ok i ∧ exec i s = .next t)) ∨
    (s.phase = .exec ∧ (∃ e, decode s.cmdl = .error e) ∧ t = raise .illegalCommand s) ∨
    (s.phase = .ecbBlocks ∧ s.pending ≠ [] ∧
      decryptBlock (pickBlock s.pending (Config.blockChoice s.draws)) (countDraw s) = .next t) ∨
    (s.phase = .ecbFinish ∧ ecbFinishStep s = .next t) := by
  unfold coreStep at h
  split at h
  · rename_i hp
    split at h
    · rename_i i hi; exact .inl ⟨hp, i, hi, h⟩
    · rename_i e he; exact .inr (.inl ⟨hp, ⟨e, he⟩, (Host.Outcome.next.inj h).symm⟩)
  · rename_i hp
    unfold ecbBlockStep at h
    split at h
    · cases h
    · rename_i hne
      exact .inr (.inr (.inl ⟨hp, by simpa using hne, h⟩))
  · rename_i hp; exact .inr (.inr (.inr ⟨hp, h⟩))
  · cases h

/-- Everything a step of the machine can do (R19, R81). -/
theorem step_cases {s t : State} (h : step s = .next t) :
    (s.busy = false ∧ s.hostOps = [] ∧ t = s) ∨
    (s.busy = true ∧ (s.hostOps = [] ∨ agentChosen s = .core) ∧ coreStep (takeTurn s) = .next t) ∨
    (∃ l ls, s.hostOps = l :: ls ∧ (s.busy = false ∨ agentChosen s = .host) ∧
      hostStep l { takeTurn s with hostOps := ls } = .next t) := by
  unfold step stepAgents at h
  split at h
  · exact .inl ⟨‹_›, ‹_›, (Host.Outcome.next.inj h).symm⟩
  · exact .inr (.inl ⟨‹_›, .inl ‹_›, h⟩)
  · exact .inr (.inr ⟨_, _, ‹_›, .inl ‹_›, h⟩)
  · split at h
    · exact .inr (.inl ⟨‹_›, .inr ‹_›, h⟩)
    · exact .inr (.inr ⟨_, _, ‹_›, .inr ‹_›, h⟩)

end Sys2Proof.Machine
end

