-- ==== Sys2Proof/Laws/Bus.lean ====
section
/-! SUPPORT. The window map and the bus operations: which register an offset names, and what an aligned
read or full write of it does, once. -/

namespace Sys2Proof.Machine

theorem aligned_iff (off : Offset) : aligned off = true ↔ off.toNat % 4 = 0 := by
  simp only [aligned, beq_iff_eq]
  constructor
  · intro h
    have h1 := congrArg BitVec.toNat h
    simpa [BitVec.extractLsb'_toNat] using h1
  · intro h
    apply BitVec.eq_of_toNat_eq
    simpa [BitVec.extractLsb'_toNat] using h

theorem regAt_low (p : Params) {off : Offset} (h : off.toNat < 0x020) :
    regAt p off = lowReg off.toNat := by
  simp [regAt, h]

theorem regAt_key (p : Params) {off : Offset} {j : Nat} (hj : j < 4)
    (h : off.toNat = 0x020 + 4 * j) : regAt p off = .key ⟨j, hj⟩ := by
  unfold regAt
  simp only
  rw [if_neg (by omega), dif_pos (by omega)]
  congr 2
  omega

theorem regAt_state (p : Params) {off : Offset} {j : Nat} (hj : j < 4)
    (h : off.toNat = 0x030 + 4 * j) : regAt p off = .state ⟨j, hj⟩ := by
  unfold regAt
  simp only
  rw [if_neg (by omega), dif_neg (by omega), dif_pos (by omega)]
  congr 2
  omega

theorem regAt_rk (p : Params) {off : Offset} {j : Nat} (hj : j < 44)
    (h : off.toNat = 0x100 + 4 * j) : regAt p off = .rk ⟨j, hj⟩ := by
  unfold regAt
  simp only
  rw [if_neg (by omega), dif_neg (by omega), dif_neg (by omega), if_neg (by omega),
    dif_pos (by omega)]
  congr 2
  omega

theorem regAt_msg (p : Params) {off : Offset} {a : Nat} (ha : a < p.msgBytes)
    (h : off.toNat = 0x1000 + a) : regAt p off = .msg a := by
  unfold regAt
  simp only
  rw [if_neg (by omega), dif_neg (by omega), dif_neg (by omega), if_neg (by omega),
    dif_neg (by omega), if_neg (by omega), h, Nat.add_sub_cancel_left, if_pos ha]

/-- An aligned read (R77): the value of the register, OK, and nothing else. -/
theorem exec_rd_aligned (s : State) {off : Offset} (h : off.toNat % 4 = 0) :
    readAnswers s off (readReg s (Config.anyWord s.draws) (regAt s.params off)) :=
  ⟨_, rfl, by simp only [(aligned_iff off).2 h]; rfl, fun _ => rfl⟩

/-- An aligned full write (R78): the write rule of the register, OK. -/
theorem exec_wr_aligned (s : State) {off : Offset} (h : off.toNat % 4 = 0) (d : Word) :
    writeLeaves s off d (writeReg (regAt s.params off) d s) := by
  simp only [writeLeaves, exec, execWr, (aligned_iff off).2 h, fullWord]
  rfl

/-- A write that is taken: BUSY = 0, or the register is not protected (R83). -/
theorem exec_wr_taken (s : State) {off : Offset} (h : off.toNat % 4 = 0) (d : Word)
    (hb : s.busy = false ∨ (regAt s.params off).isProtected = false) :
    writeLeaves s off d (writeRegIdle (regAt s.params off) d s) := by
  have := exec_wr_aligned s h d
  rcases hb with hb | hb <;> simpa [writeReg, hb] using this

/-- A write that is dropped: BUSY = 1 and the register is protected (R83). -/
theorem exec_wr_dropped (s : State) {off : Offset} (h : off.toNat % 4 = 0) (d : Word)
    (hb : s.busy = true) (hp : (regAt s.params off).isProtected = true) :
    writeDropped s off d := by
  have := exec_wr_aligned s h d
  rwa [writeReg, hb, hp] at this

/-- A bit of KWMASK after a write of KEYj (R70). -/
theorem getLsbD_setKeyBit (m : BitVec 4) (j n : Fin 4) :
    (setKeyBit m j).getLsbD n.val = (decide (n = j) || m.getLsbD n.val) := by
  revert m j n
  decide +kernel

/-- The bits of `statusWord` (R66): the fields, and 0 in every reserved bit. -/
theorem getLsbD_statusWord (s : State) (i : Nat) : (statusWord s).getLsbD i =
    if i = 0 then s.busy else if i = 1 then s.done else if i = 2 then s.err else if i = 3 then s.ovr
    else if i = 4 then s.sv else if 8 ≤ i ∧ i < 12 then s.kwmask.getLsbD (i - 8)
    else if 16 ≤ i ∧ i < 20 then s.errcode.getLsbD (i - 16) else false := by
  by_cases h : i < 32
  · unfold statusWord
    simp only [BitVec.getLsbD_append]
    interval_cases i <;> simp
  · rw [BitVec.getLsbD_of_ge _ _ (by omega)]
    repeat rw [if_neg (by omega)]

end Sys2Proof.Machine
end

