-- ==== Sys2Proof/Laws/Commands.lean ====
section
/-! SUPPORT. What each command does, once, in the terms of the shared operations: the next state of `exec`
for each outcome of the command's checks. -/

namespace Sys2Proof.Machine

variable (s : State)

theorem blockInRange_iff (p : Params) (b : Nat) : blockInRange p b = true ↔ b < p.msgBlocks := by
  simp [blockInRange]

theorem roundInRange_iff (r : Nat) : roundInRange r = true ↔ r ≤ 10 := by simp [roundInRange]

theorem lengthLegal_iff (p : Params) (l : BitVec 13) :
    lengthLegal p l = true ↔ l.toNat ≠ 0 ∧ l.toNat % 16 = 0 ∧ l.toNat ≤ p.msgBytes := by
  simp [lengthLegal, and_assoc]

theorem exec_nop : exec .nop s = .next (finish none s) := rfl

theorem exec_keyExpand : exec .keyExpand s =
    .next (if s.kwmask ≠ 0b1111 then raise .invalidKeyLength s
      else finish none (clearKey (installSchedule s))) := rfl

theorem exec_keyClear : exec .keyClear s = .next (finish none (clearKey s)) := rfl

theorem exec_schedClear : exec .schedClear s = .next (finish none (discardSchedule s)) := rfl

theorem exec_loadState (b : Nat) : exec (.loadState b) s =
    .next (if b < s.params.msgBlocks then finish none (setState (s.readBlock b) s)
      else raise .badOperand s) := by
  simp only [exec, execLoadState, blockInRange_iff]

theorem exec_storeState (b : Nat) : exec (.storeState b) s =
    .next (if b < s.params.msgBlocks then finish none (s.writeBlock b s.state)
      else raise .badOperand s) := by
  simp only [exec, execStoreState, blockInRange_iff]

theorem exec_invShiftRows :
    exec .invShiftRows s = .next (finish none (setState (invShiftRowsF s.state) s)) := rfl

theorem exec_invSubBytes :
    exec .invSubBytes s = .next (finish none (setState (invSubBytesF s.state) s)) := rfl

theorem exec_invMixColumns :
    exec .invMixColumns s = .next (finish none (setState (invMixColumnsF s.state) s)) := rfl

theorem exec_addRoundKey (r : Nat) : exec (.addRoundKey r) s =
    .next (if 10 < r then raise .badOperand s
      else if s.sv = false then raise .noSchedule s
      else finish none (setState (addRoundKeyF s.rk s.state r) s)) := by
  have e : (!roundInRange r) = true ↔ 10 < r := by simp [roundInRange]
  simp only [exec, execAddRoundKey, e, Bool.not_eq_true']

theorem exec_decryptState : exec .decryptState s =
    .next (if s.sv = false then raise .noSchedule s
      else finish none (setState (invCipher s.state s.rk) s)) := by
  simp only [exec, execDecryptState, Bool.not_eq_true']

theorem exec_ecbDecrypt : exec .ecbDecrypt s =
    .next (if lengthLegal s.params s.len = false then raise .invalidInputLength (setOutlen 0 s)
      else if s.kwmask ≠ 0b1111 then raise .invalidKeyLength (setOutlen 0 s)
      else startJob (setOutlen 0 s)) := by
  simp only [exec, execEcbDecrypt, Bool.not_eq_true']

/-- The finish step, when LEN is one that the setup step accepted (R203 to R208). -/
theorem ecbFinishStep_next (h1 : 16 ≤ s.len.toNat) (h2 : s.len.toNat ≤ s.params.msgBytes) :
    ecbFinishStep s = .next
      (if pkcs7Valid (s.memRead 0 s.len.toNat) = true then
        finish none (setOutlen (s.len.toNat - (s.msgByte (s.len.toNat - 1)).toNat)
          (discardSchedule s))
      else match s.params.padPolicy with
        | .permissive => finish none (setOutlen s.len.toNat (discardSchedule s))
        | .strict => raise .invalidPadding (setOutlen 0
            ((discardSchedule s).memWrite 0 (List.replicate s.len.toNat 0)))) := by
  unfold ecbFinishStep
  simp only
  rw [if_neg (by omega)]
  split
  · rfl
  · cases s.params.padPolicy <;> rfl

/-- The block picked is one of those pending. -/
theorem pickBlock_mem {l : List Nat} (n : Nat) (h : l ≠ []) : pickBlock l n ∈ l := by
  match l with
  | [] => exact absurd rfl h
  | [b] => simp [pickBlock]
  | b :: c :: m =>
    simp only [pickBlock]
    rw [List.getD_eq_getElem (hn := Nat.mod_lt _ (by simp))]
    exact List.getElem_mem ..

/-- The block step on a block of the buffer. -/
theorem decryptBlock_next {b : Nat} (hb : b < s.params.msgBlocks) :
    decryptBlock b s = .next (blockDone b s) := by
  unfold decryptBlock
  rw [if_pos ((blockInRange_iff _ _).2 hb)]

/-- The bytes of MSG after a block step (R202): those of block `b`, and no other. -/
theorem msgByte_blockDone (b x : Nat) : (blockDone b s).msgByte x =
    if x / 16 = b then (invCipher (s.readBlock b) s.rk).byte (x % 16) else s.msgByte x := by
  rw [blockDone_msgByte, State.msgByte_writeBlock]
  by_cases h : 16 * b ≤ x ∧ x < 16 * b + 16
  · rw [if_pos h, if_pos (by omega), show x - 16 * b = x % 16 by omega]
  · rw [if_neg h, if_neg (by omega)]

/-- The block step, with at least one block pending. -/
theorem ecbBlockStep_of_pending (h : s.pending ≠ []) : ecbBlockStep s =
    decryptBlock (pickBlock s.pending (Config.blockChoice s.draws)) (countDraw s) := by
  unfold ecbBlockStep
  rw [if_neg (by simpa using h)]

/-- The core step in PHASE = EXEC performs the command (R97). -/
theorem coreStep_exec {i : Instr} (hp : s.phase = .exec) (hd : decode s.cmdl = .ok i) :
    coreStep s = exec i s := by
  unfold coreStep
  rw [hp]
  simp only [hd]

/-- The core step in PHASE = EXEC on an illegal word (R94, R97). -/
theorem coreStep_illegal {e : Illegal} (hp : s.phase = .exec) (hd : decode s.cmdl = .error e) :
    coreStep s = .next (raise .illegalCommand s) := by
  unfold coreStep
  rw [hp]
  simp only [hd]

theorem coreStep_ecbBlocks (hp : s.phase = .ecbBlocks) : coreStep s = ecbBlockStep s := by
  unfold coreStep
  rw [hp]

theorem coreStep_ecbFinish (hp : s.phase = .ecbFinish) : coreStep s = ecbFinishStep s := by
  unfold coreStep
  rw [hp]

/-- The only word that decodes to ECB_DECRYPT (R92). -/
theorem cmdl_of_decode_ecbDecrypt {w : Word} (h : decode w = .ok .ecbDecrypt) :
    w = 0x00000020 := by
  unfold decode decodeFields withoutOperand at h
  split at h
  · cases h
  · rename_i hr
    split at h <;> first | (split at h <;> cases h) | cases h
    rename_i ho hop
    have hr : rsvField w = 0 := by simpa using hr
    have h16 := congrArg BitVec.toNat hr
    rw [show (0 : BitVec 16).toNat = 0 from rfl] at h16
    apply BitVec.eq_of_toNat_eq
    rw [show (0x00000020 : Word).toNat = 32 from rfl]
    simp only [opField, opaField, rsvField, BitVec.extractLsb'_toNat,
      Nat.shiftRight_eq_div_pow] at ho hop h16
    have := w.isLt
    omega

end Sys2Proof.Machine
end

