-- ==== Sys2Proof/Laws/Encoding.lean ====
section
/-! SUPPORT. The fields of a command word, and words put together from their fields. -/

namespace Sys2Proof

theorem opaField_lt (w : Word) : opaField w < 256 := (w.extractLsb' 8 8).isLt

theorem opField_lt (w : Word) : opField w < 256 := (w.extractLsb' 0 8).isLt

theorem decode_of_rsvField_zero {w : Word} (h : rsvField w = 0) :
    decode w = decodeFields (opField w) (opaField w) := by
  rw [decode, if_neg (by simpa using h)]

/-- The fields of `match(m) | (opa << 8)` (R103). -/
theorem fields_commandWord {p : Word} {b : Nat} (hb : b < 256) (hp : p.toNat < 256) :
    opField (commandWord p b) = p.toNat ∧ opaField (commandWord p b) = b ∧
      rsvField (commandWord p b) = 0 := by
  have h0 : commandWord p b = BitVec.ofNat 32 (p.toNat + 256 * b) := by
    apply BitVec.eq_of_toNat_eq
    simp only [commandWord, BitVec.toNat_or, BitVec.toNat_shiftLeft, BitVec.toNat_ofNat]
    have e : b % 2 ^ 32 = b := by omega
    rw [e, Nat.shiftLeft_eq, Nat.mod_eq_of_lt (by omega : b * 2 ^ 8 < 2 ^ 32),
      Nat.mod_eq_of_lt (by omega), Nat.mul_comm b, Nat.or_comm,
      ← Nat.two_pow_add_eq_or_of_lt (by omega : p.toNat < 2 ^ 8)]
    omega
  rw [h0]
  refine ⟨?_, ?_, BitVec.eq_of_toNat_eq ?_⟩
  · simp only [opField, BitVec.extractLsb'_toNat, BitVec.toNat_ofNat]; omega
  · simp only [opaField, BitVec.extractLsb'_toNat, BitVec.toNat_ofNat,
      Nat.shiftRight_eq_div_pow]; omega
  · rw [show (0 : BitVec 16).toNat = 0 from rfl]
    simp only [rsvField, BitVec.extractLsb'_toNat, BitVec.toNat_ofNat,
      Nat.shiftRight_eq_div_pow]; omega

/-- A word with RSV = 0 is the command word of its own fields. -/
theorem eq_commandWord_of_rsvField_zero {w : Word} (h : rsvField w = 0) :
    w = commandWord (BitVec.ofNat 32 (opField w)) (opaField w) := by
  apply BitVec.eq_of_toNat_eq
  have h1 : w.toNat < 65536 := by
    have h2 := congrArg BitVec.toNat h
    rw [show (0 : BitVec 16).toNat = 0 from rfl] at h2
    simp only [rsvField, BitVec.extractLsb'_toNat, Nat.shiftRight_eq_div_pow] at h2
    have := w.isLt
    omega
  simp only [commandWord, opField, opaField, BitVec.extractLsb'_toNat, BitVec.toNat_or,
    BitVec.toNat_shiftLeft, BitVec.toNat_ofNat, Nat.shiftRight_eq_div_pow, Nat.shiftLeft_eq]
  have e : w.toNat / 2 ^ 8 % 2 ^ 8 % 2 ^ 32 * 2 ^ 8 % 2 ^ 32 = 2 ^ 8 * (w.toNat / 2 ^ 8 % 2 ^ 8) := by
    omega
  have e2 : w.toNat / 2 ^ 0 % 2 ^ 8 % 2 ^ 32 = w.toNat % 2 ^ 8 := by omega
  rw [e, e2, Nat.or_comm, ← Nat.two_pow_add_eq_or_of_lt (by omega)]
  omega

/-- A row of the table matches a word field by field. -/
theorem TableRow.fields_of_matches {w : Word} {r : TableRow} (h : r.matches w = true) :
    opField w &&& opField r.mask = opField r.pattern ∧
    opaField w &&& opaField r.mask = opaField r.pattern ∧
    rsvField w &&& rsvField r.mask = rsvField r.pattern := by
  have hm : w &&& r.mask = r.pattern := by simpa [TableRow.matches] using h
  rw [← hm]
  refine ⟨?_, ?_, ?_⟩ <;> simp [opField, opaField, rsvField, BitVec.extractLsb'_and]

end Sys2Proof
end

