-- ==== Sys2Proof/Laws/PerInstr.lean ====
section
/-! SUPPORT. A statement about every instruction as syntax, one lemma for each constructor: the command word
of a well-formed instruction has RSV = 0 and its operand in OPA (30_encoding.md R90, R103). -/

namespace Sys2Proof.Laws.EncodeReserved

/-- The operand that OPA carries (R91). -/
def operandOf : Instr → Nat
  | .loadState b => b
  | .storeState b => b
  | .addRoundKey r => r
  | .nop | .keyExpand | .keyClear | .schedClear | .invShiftRows | .invSubBytes | .invMixColumns
  | .decryptState | .ecbDecrypt | .rd _ | .wr _ _ _ => 0

def Statement (i : Instr) : Prop :=
  i.wellFormed = true → ∀ w, encode i = some w → rsvField w = 0 ∧ opaField w = operandOf i

theorem of_commandWord {p : Word} {b : Nat} (hp : p.toNat < 256) (hb : b < 256) {w : Word}
    (h : some (commandWord p b) = some w) : rsvField w = 0 ∧ opaField w = b := by
  cases h
  exact ⟨(fields_commandWord hb hp).2.2, (fields_commandWord hb hp).2.1⟩

theorem nop : Statement .nop := fun _ _ h => of_commandWord (by decide) (by decide) h

theorem keyExpand : Statement .keyExpand := fun _ _ h => of_commandWord (by decide) (by decide) h

theorem keyClear : Statement .keyClear := fun _ _ h => of_commandWord (by decide) (by decide) h

theorem schedClear : Statement .schedClear := fun _ _ h => of_commandWord (by decide) (by decide) h

theorem loadState (b : Nat) : Statement (.loadState b) :=
  fun hb _ h => of_commandWord (by decide) (of_decide_eq_true hb) h

theorem storeState (b : Nat) : Statement (.storeState b) :=
  fun hb _ h => of_commandWord (by decide) (of_decide_eq_true hb) h

theorem invShiftRows : Statement .invShiftRows :=
  fun _ _ h => of_commandWord (by decide) (by decide) h

theorem invSubBytes : Statement .invSubBytes :=
  fun _ _ h => of_commandWord (by decide) (by decide) h

theorem invMixColumns : Statement .invMixColumns :=
  fun _ _ h => of_commandWord (by decide) (by decide) h

theorem addRoundKey (r : Nat) : Statement (.addRoundKey r) :=
  fun hr _ h => of_commandWord (by decide) (of_decide_eq_true hr) h

theorem decryptState : Statement .decryptState :=
  fun _ _ h => of_commandWord (by decide) (by decide) h

theorem ecbDecrypt : Statement .ecbDecrypt :=
  fun _ _ h => of_commandWord (by decide) (by decide) h

theorem rd (off : Offset) : Statement (.rd off) := fun _ _ h => by cases h

theorem wr (off : Offset) (data : Word) (be : BitVec 4) : Statement (.wr off data be) :=
  fun _ _ h => by cases h

end Sys2Proof.Laws.EncodeReserved
end

