-- ==== Sys2Proof/Tests/Slice0.lean ====
section
/-! SUPPORT. Tests: the WellFormed smoke, decoding of written-out words, one-step tests with values from
spec/95_test_vectors.md, and a witness for the hypotheses of each statement. -/

namespace Sys2Proof.Tests

open Sys2Proof.Machine

/-! ### Helpers -/

/-- Sixteen bytes written as four words. -/
def blk (w0 w1 w2 w3 : Word) : Block := ⟨Col.ofWord w0, Col.ofWord w1, Col.ofWord w2, Col.ofWord w3⟩

/-- The core right after reset, with MSG_BLOCKS = 4 and PAD_POLICY = STRICT (95 section 3.6). -/
def base : State := { State.reset with params := ⟨3, .strict⟩ }

/-- `K` of 95 section 3.7. -/
def keyK : Block := blk 0x2b7e1516 0x28aed2a6 0xabf71588 0x09cf4f3c

/-- `KC` of 95 section 3.7. -/
def keyC : Block := blk 0x00010203 0x04050607 0x08090a0b 0x0c0d0e0f

/-- The ciphertext block of FIPS-197 C.1 (95 section 2.2). -/
def cipherC : Block := blk 0x69c4e0d8 0x6a7b0430 0xd8cdb780 0x70b4c55a

/-- The bytes 00112233445566778899aabbccddeeff. -/
def plainC : Block := blk 0x00112233 0x44556677 0x8899aabb 0xccddeeff

/-- The next state has the property. -/
def gives (o : Host.Outcome State Fault Refusal) (p : State → Bool) : Bool :=
  match o with
  | .next t => p t
  | .fault _ => false
  | .refused _ => false

/-- `base` with the key written. -/
def keyed (k : Block) : State := { base with key := k, kwmask := 0b1111 }

/-- `base` with the schedule of a key. -/
def scheduled (k : Block) (st : Block) : State := { base with rk := keyExpansion k, sv := true, state := st }

/-! ### WellFormed -/

theorem test_loadState_256_is_ill_formed : Instr.wellFormed (.loadState 256) = false := by decide
theorem test_storeState_256_is_ill_formed : Instr.wellFormed (.storeState 256) = false := by decide
theorem test_addRoundKey_256_is_ill_formed : Instr.wellFormed (.addRoundKey 256) = false := by decide
theorem test_largest_operands_are_well_formed :
    Instr.wellFormed (.loadState 255) = true ∧ Instr.wellFormed (.storeState 255) = true ∧
      Instr.wellFormed (.addRoundKey 255) = true := by decide

/-! ### Decode: words written out from OPA (bits 15:8) and OP (bits 7:0) of R92 -/

theorem test_decode_nop : decode 0b00000000_00000000_00000000_00000000 = .ok .nop := by decide
theorem test_decode_keyExpand : decode 0b00000000_00000000_00000000_00000001 = .ok .keyExpand := by
  decide
theorem test_decode_keyClear : decode 0b00000000_00000000_00000000_00000010 = .ok .keyClear := by
  decide
theorem test_decode_schedClear : decode 0b00000000_00000000_00000000_00000011 = .ok .schedClear := by
  decide
theorem test_decode_loadState : decode 0b00000000_00000000_00000011_00010000 = .ok (.loadState 3) := by
  decide
theorem test_decode_storeState :
    decode 0b00000000_00000000_11001000_00010001 = .ok (.storeState 200) := by decide
theorem test_decode_invShiftRows :
    decode 0b00000000_00000000_00000000_00010010 = .ok .invShiftRows := by decide
theorem test_decode_invSubBytes :
    decode 0b00000000_00000000_00000000_00010011 = .ok .invSubBytes := by decide
theorem test_decode_invMixColumns :
    decode 0b00000000_00000000_00000000_00010100 = .ok .invMixColumns := by decide
theorem test_decode_addRoundKey :
    decode 0b00000000_00000000_00001010_00010101 = .ok (.addRoundKey 10) := by decide
theorem test_decode_decryptState :
    decode 0b00000000_00000000_00000000_00010110 = .ok .decryptState := by decide
theorem test_decode_ecbDecrypt :
    decode 0b00000000_00000000_00000000_00100000 = .ok .ecbDecrypt := by decide

/-- The illegal words of 95 section 3.5. -/
theorem test_decode_refuses_by_name :
    decode 0x00000120 = .error .operandNotZero ∧ decode 0x00000100 = .error .operandNotZero ∧
    decode 0x00010000 = .error .reservedBits ∧ decode 0x80000020 = .error .reservedBits ∧
    decode 0x00000004 = .error .unassignedOpcode ∧ decode 0x0000000F = .error .unassignedOpcode ∧
    decode 0x0000001F = .error .unassignedOpcode ∧ decode 0x00000021 = .error .unassignedOpcode ∧
    decode 0x000000FF = .error .unassignedOpcode := by decide

theorem test_bus_operations_have_no_word :
    encode (.rd 0x00C) = none ∧ encode (.wr 0x008 0x20 0b1111) = none ∧
      decodeTableWord 0 0 = none := by decide

theorem test_decodeTableWord : decodeTableWord 32 0x00000A15 = some (.addRoundKey 10) := by decide

/-! ### Arithmetic and tables (95 sections 3.1, 3.2) -/

theorem test_gmul : gmul 0x57 0x13 = 0xFE ∧ gmul 0x57 0x83 = 0xC1 ∧ gmul 0x0E 0xFF = 0x8D := by decide
theorem test_xtime : xtime 0x57 = 0xAE ∧ xtime 0xAE = 0x47 ∧ xtime 0x80 = 0x1B := by decide
theorem test_sbox : sbox 0x53 = 0xED ∧ sbox 0xFF = 0x16 ∧ invSbox 0xED = 0x53 ∧ invSbox 0xFF = 0x7D := by
  decide

/-- RCON ends at 0x36, and the examples of R125 and R126. -/
theorem test_rcon_rotWord_subWord :
    rcon 10 = 0x36 ∧ (rotWord (Col.ofWord 0x09CF4F3C)).toWord = 0xCF4F3C09 ∧
      (subWord (Col.ofWord 0xCF4F3C09)).toWord = 0x8A84EB01 := by decide

/-! ### Host program lines (30_encoding.md R102, R104) -/

theorem test_symbolic_offsets :
    regAt base.params offsetId = .id ∧ regAt base.params offsetParam = .param ∧
      offsetMsg 0xFFC = some 0x1FFC ∧ offsetMsg 0x1000 = none := by decide

/-- Block 255 is the last that the window has; the line for block 256 is refused (log 21). -/
theorem test_blk :
    linesBlk 255 plainC = some [.wr 0x1FF0 0x00112233 0b1111, .wr 0x1FF4 0x44556677 0b1111,
      .wr 0x1FF8 0x8899AABB 0b1111, .wr 0x1FFC 0xCCDDEEFF 0b1111] ∧
    linesBlk 256 plainC = none := by decide

/-! ### One step of each instruction (95 sections 3.6, 3.7, 3.8) -/

/-- C1. -/
theorem test_nop : gives (exec .nop (acceptCommand 0 base)) (fun t => statusWord t == 0x00000002) = true := by
  decide

/-- C2. -/
theorem test_keyExpand :
    gives (exec .keyExpand (acceptCommand 1 (keyed keyK))) (fun t =>
      (schedWord t.rk 4).toWord == 0xA0FAFE17 && (schedWord t.rk 43).toWord == 0xB6630CA6 &&
      statusWord t == 0x00000012) = true := by decide +kernel

/-- C3. -/
theorem test_keyExpand_incomplete :
    gives (exec .keyExpand (acceptCommand 1 { base with kwmask := 0b0111 })) (fun t =>
      statusWord t == 0x00020706) = true := by decide

/-- C6. -/
theorem test_keyClear :
    gives (exec .keyClear (acceptCommand 2 { keyed keyK with sv := true })) (fun t =>
      t.key == Block.zero && statusWord t == 0x00000012) = true := by decide

/-- C7. -/
theorem test_schedClear :
    gives (exec .schedClear (acceptCommand 3 (scheduled keyC Block.zero))) (fun t =>
      rkByte t.rk 175 == 0 && statusWord t == 0x00000002) = true := by decide

/-- C8. -/
theorem test_loadState :
    gives (exec (.loadState 0) (base.writeBlock 0 cipherC)) (fun t => t.state == cipherC) = true := by
  decide

/-- C9. -/
theorem test_loadState_past_the_end :
    gives (exec (.loadState 4) (acceptCommand 0x410 base)) (fun t =>
      statusWord t == 0x00060006) = true := by decide

/-- C10. -/
theorem test_storeState :
    gives (exec (.storeState 1) { base with state := plainC }) (fun t =>
      t.readBlock 1 == plainC && t.msgWord 16 == 0x00112233) = true := by decide

/-- C11. -/
theorem test_storeState_past_the_end :
    gives (exec (.storeState 200) (acceptCommand 0xC811 base)) (fun t =>
      statusWord t == 0x00060006 && t.msg == []) = true := by decide

/-- C12. -/
theorem test_invShiftRows :
    gives (exec .invShiftRows { base with state := keyC }) (fun t =>
      t.state == blk 0x000d0a07 0x04010e0b 0x0805020f 0x0c090603) = true := by decide

/-- C13. -/
theorem test_invSubBytes :
    gives (exec .invSubBytes { base with state := keyC }) (fun t =>
      t.state == blk 0x52096ad5 0x3036a538 0xbf40a39e 0x81f3d7fb) = true := by decide +kernel

/-- C14. -/
theorem test_invMixColumns :
    gives (exec .invMixColumns
      { base with state := blk 0x8e4da1bc 0x9fdc589d 0x01010101 0xc6c6c6c6 }) (fun t =>
      t.state == blk 0xdb135345 0xf20a225c 0x01010101 0xc6c6c6c6) = true := by decide +kernel

/-- C15. -/
theorem test_addRoundKey :
    gives (exec (.addRoundKey 10) (scheduled keyC cipherC)) (fun t =>
      t.state == blk 0x7ad5fda7 0x89ef4e27 0x2bca100b 0x3d9ff59f) = true := by decide +kernel

/-- C18: BadOperand is checked before NoSchedule. -/
theorem test_addRoundKey_order_of_errors :
    gives (exec (.addRoundKey 11) (acceptCommand 0xB15 base)) (fun t =>
      statusWord t == 0x00060006) = true := by decide

/-- C20. -/
theorem test_decryptState :
    gives (exec .decryptState (scheduled keyC cipherC)) (fun t => t.state == plainC) = true := by
  decide +kernel

/-- C24. -/
theorem test_decryptState_without_schedule :
    gives (exec .decryptState (acceptCommand 0x16 base)) (fun t =>
      statusWord t == 0x00050006) = true := by decide

/-- E4: LEN above MSG_BYTES. -/
theorem test_ecbDecrypt_too_long :
    gives (exec .ecbDecrypt { keyed keyK with len := 80 }) (fun t =>
      t.errcode == 1 && t.outlen == 0 && t.key == keyK && t.kwmask == 0b1111) = true := by decide

/-- R201 for LEN = 64: the key is consumed, four blocks are pending, BUSY stays. -/
theorem test_ecbDecrypt :
    gives (exec .ecbDecrypt (acceptCommand 0x20 { keyed keyC with len := 64 })) (fun t =>
      t.pending == [0, 1, 2, 3] && t.phase == .ecbBlocks && t.busy && !t.done && t.sv &&
      t.key == Block.zero && t.kwmask == 0 && t.nblk == 4) = true := by decide

/-- RD PARAM and RD past the buffer. -/
theorem test_rd :
    gives (exec (.rd 0x004) base) (fun t => t.resp == .readOk 0x00010004) = true ∧
    gives (exec (.rd 0x1040) base) (fun t => t.resp == .readOk 0) = true := by decide

/-- WR KEY0: KWMASK and the bytes; WR with byte enables 0011 is a bus error. -/
theorem test_wr :
    gives (exec (.wr 0x020 0x2B7E1516 0b1111) base) (fun t =>
      t.key.c0 == ⟨0x2b, 0x7e, 0x15, 0x16⟩ && statusWord t == 0x00000100) = true ∧
    gives (exec (.wr 0x010 0x20 0b0011) base) (fun t =>
      t.resp == .writeErr && t.len == 0) = true := by decide

/-- WR LEN while BUSY is dropped; WR STATUS clears ERR and keeps DONE. -/
theorem test_wr_busy_and_w1c :
    gives (exec (.wr 0x010 0x20 0b1111) (acceptCommand 0 base)) (fun t => t.ovr && t.len == 0) = true ∧
    gives (exec (.wr 0x00C 0x00000004 0b1111) { base with done := true, err := true, errcode := 1 })
      (fun t => t.done && !t.err && t.errcode == 0) = true := by decide

/-- A word placed for the next step runs as the first instruction after reset. -/
theorem test_withFetchWord :
    gives (step (State.reset.withFetchWord 32 0x00000002)) (fun t => t.done && !t.busy && !t.err) = true ∧
    gives (step (State.reset.withFetchWord 32 0x000000FF)) (fun t => t.errcode == 4) = true := by decide

/-! ### Witnesses: a concrete state and operands that meet the hypotheses of a statement -/

/-- Two commands of the host while a command runs; the core moves, then the host. -/
def racing : State :=
  { acceptCommand 0x00000002 base with
    hostOps := [.rd 0x00C, .wr 0x018 1 0b1111]
    turns := [.core, .host] }

theorem witness_DecodeOfEncodeIsTheInstruction :
    Instr.wellFormed (.storeState 255) = true ∧ encode (.storeState 255) = some 0x0000FF11 ∧
      Instr.wellFormed (.rd 0x00C) = true ∧ encode (.rd 0x00C) = none := by decide

theorem witness_EncodeOfDecodeIsTheWord : decode 0x0000FF15 = .ok (.addRoundKey 255) := by decide

theorem witness_DecodeAcceptsExactlyTheTableRows :
    TableRow.matches ⟨0x00000010, 0xFFFF00FF⟩ 0x0000FF10 = true ∧
      (⟨0x00000010, 0xFFFF00FF⟩ : TableRow) ∈ opcodeTable := by decide

/-- The core moves in PHASE = EXEC with a host line left, and with none; the other two phases are at
`witness_StepPerformsTheLatchedCommand_job`. -/
theorem witness_StepPerformsTheLatchedCommand :
    racing.busy = true ∧ racing.phase = .exec ∧ decode racing.cmdl = .ok .keyClear ∧
      agentChosen racing = .core ∧ (acceptCommand 0x00000A15 base).hostOps = [] ∧
      decode (acceptCommand 0x00000A15 base).cmdl = .ok (.addRoundKey 10) := by decide

theorem witness_IllegalWordRaisesIllegalCommand :
    (acceptCommand 0x00000017 base).busy = true ∧ (acceptCommand 0x00000017 base).phase = .exec ∧
      (∀ r ∈ opcodeTable, r.matches (acceptCommand 0x00000017 base).cmdl = false) ∧
      (acceptCommand 0x00000017 base).hostOps = [] := by decide

theorem witness_StepPerformsTheHostLine :
    { racing with turns := [.host] }.hostOps = .rd 0x00C :: [.wr 0x018 1 0b1111] ∧
      agentChosen { racing with turns := [.host] } = .host ∧
      { base with hostOps := [.wr 0x008 2 0b1111] }.busy = false := by decide

theorem witness_EitherAgentMayStepNext :
    racing.busy = true ∧ racing.hostOps = .rd 0x00C :: [.wr 0x018 1 0b1111] := by decide

theorem witness_KeyExpandDerivesTheSchedule :
    (keyed keyK).kwmask = 0b1111 ∧ { base with kwmask := 0b0111 }.kwmask ≠ 0b1111 := by decide

/-- The last block, and the first index past it. -/
theorem witness_LoadStateCopiesTheBlock :
    3 < base.params.msgBlocks ∧ base.params.msgBlocks ≤ 4 := by decide

theorem witness_StoreStateWritesTheBlock :
    3 < base.params.msgBlocks ∧ base.params.msgBlocks ≤ 4 := by decide

/-- Round 10 with and without a schedule; 11 is past the last round. -/
theorem witness_AddRoundKeyXorsTheRoundKey :
    (10 ≤ 10 ∧ (scheduled keyC cipherC).sv = true) ∧ 10 < 11 ∧ (10 ≤ 10 ∧ base.sv = false) :=
  ⟨⟨by decide, rfl⟩, by decide, by decide, rfl⟩

theorem witness_DecryptStateAppliesTheInverseCipher :
    (scheduled keyC cipherC).sv = true ∧ base.sv = false := ⟨rfl, rfl⟩

theorem witness_StageCommandsComposeToDecryptState : (scheduled keyC cipherC).sv = true := rfl

/-- The lengths at the edges: 16 and 64 are legal with four blocks; 0, 15 and 80 are not. -/
theorem witness_EcbSetupStartsTheJob :
    (∀ l ∈ [16, 64], l ≠ 0 ∧ l % 16 = 0 ∧ l ≤ base.params.msgBytes) ∧
    (keyed keyK).kwmask = 0b1111 ∧ base.kwmask ≠ 0b1111 ∧
    (∀ l ∈ [0, 15, 80], l = 0 ∨ l % 16 ≠ 0 ∨ base.params.msgBytes < l) := by decide

/-- A job in its block steps with two blocks pending, the buffer's first and last. -/
def inBlocks : State :=
  { scheduled keyC Block.zero with
    busy := true
    phase := .ecbBlocks
    pending := [0, 3]
    nblk := 4
    len := 64 }

theorem witness_EcbBlockStepDecryptsOnePendingBlock :
    inBlocks.phase = .ecbBlocks ∧ inBlocks.pending ≠ [] ∧ inBlocks.pending.Nodup ∧
      ∀ b ∈ inBlocks.pending, b < inBlocks.params.msgBlocks := by decide

/-- A job at its finish step; the last block ends in a valid pad. -/
def atFinish (p : PadPolicy) (last : Block) : State :=
  { inBlocks with pending := [], phase := .ecbFinish, len := 16, params := ⟨3, p⟩ }.writeBlock 0 last

/-- Sixteen bytes 0x10. -/
def fullPad : Block := blk 0x10101010 0x10101010 0x10101010 0x10101010

theorem witness_EcbFinishStepRemovesThePad :
    (atFinish .strict fullPad).phase = .ecbFinish ∧ (atFinish .strict fullPad).len.toNat = 16 ∧
      16 ≤ (atFinish .strict fullPad).params.msgBytes ∧
      padValid (atFinish .strict fullPad).msgByte 16 ∧
      ¬ padValid (atFinish .strict plainC).msgByte 16 ∧
      (atFinish .strict plainC).params.padPolicy = .strict ∧
      ¬ padValid (atFinish .permissive plainC).msgByte 16 ∧
      (atFinish .permissive plainC).params.padPolicy = .permissive := by
  refine ⟨by decide, by decide, by decide, ?_, fun h => ?_, rfl, fun h => ?_, rfl⟩
  · exact ⟨by decide, by decide, by decide⟩
  · exact absurd h.2.1 (by decide)
  · exact absurd h.2.1 (by decide)

theorem witness_StepPerformsTheLatchedCommand_job :
    inBlocks.busy = true ∧ inBlocks.phase = .ecbBlocks ∧ inBlocks.hostOps = [] ∧
      (atFinish .strict fullPad).busy = true ∧ (atFinish .strict fullPad).phase = .ecbFinish ∧
      (atFinish .strict fullPad).hostOps = [] := by decide

theorem witness_EcbBlockOrderDoesNotMatter :
    Memory.wf inBlocks.msg = true ∧ inBlocks.pending.Nodup ∧
      (∀ b ∈ inBlocks.pending, b < inBlocks.params.msgBlocks) ∧
      [0, 3].Perm inBlocks.pending ∧ [3, 0].Perm inBlocks.pending := by decide

/-- A job of one block before its acceptance (E10 with `fullPad` as its plaintext; E8). -/
def oneBlock (p : PadPolicy) (k c : Block) : State :=
  { keyed k with len := 16, params := ⟨3, p⟩ }.writeBlock 0 c

/-- The ciphertexts of E10 and of E7 and E8. -/
def cipherE10 : Block := blk 0x954f64f2 0xe4e86e9e 0xee82d202 0x16684899
def cipherE8 : Block := blk 0x3ad77bb4 0x0d7a3660 0xa89ecaf3 0x2466ef97

theorem witness_EcbJobResult_legal :
    (oneBlock .strict keyC cipherE10).len.toNat ≠ 0 ∧ (oneBlock .strict keyC cipherE10).len.toNat % 16 = 0 ∧
      (oneBlock .strict keyC cipherE10).len.toNat ≤ (oneBlock .strict keyC cipherE10).params.msgBytes ∧
      (oneBlock .strict keyC cipherE10).kwmask = 0b1111 ∧ base.kwmask ≠ 0b1111 ∧
      base.len.toNat = 0 := by decide

/-- E10 of 95 section 3.8. -/
theorem plain_of_cipherE10 : invCipher cipherE10 (keyExpansion keyC) = fullPad := by decide +kernel

/-- The SP 800-38A block of 95 section 2.4. -/
theorem plain_of_cipherE8 : invCipher cipherE8 (keyExpansion keyK) =
    blk 0x6bc1bee2 0x2e409f96 0xe93d7e11 0x7393172a := by decide +kernel

theorem plainByte_oneBlock {p : PadPolicy} {k c : Block} {a : Nat} (ha : a < 16) :
    plainByte (oneBlock p k c) a = (invCipher c (keyExpansion k)).byte a := by
  have h : (oneBlock p k c).readBlock 0 = c := Block.ext_byte fun i hi => by
    rw [State.byte_readBlock _ _ hi, oneBlock, State.msgByte_writeBlock, if_pos (by omega)]
    congr 1
    omega
  rw [plainByte, show a / 16 = 0 by omega, show a % 16 = a by omega, h]
  rfl

theorem witness_EcbJobResult_valid_pad : padValid (plainByte (oneBlock .strict keyC cipherE10)) 16 := by
  have h : ∀ a < 16, plainByte (oneBlock .strict keyC cipherE10) a = 0x10 := fun a ha => by
    rw [plainByte_oneBlock ha, plain_of_cipherE10]
    interval_cases a <;> rfl
  have h15 := h (16 - 1) (by decide)
  refine ⟨by rw [h15]; decide, by rw [h15]; decide, fun k hk => ?_⟩
  rw [h15] at hk ⊢
  exact h _ (by simp at hk ⊢; omega)

theorem witness_EcbJobResult_invalid_pad (p : PadPolicy) :
    ¬ padValid (plainByte (oneBlock p keyK cipherE8)) 16 := by
  intro ⟨_, h2, _⟩
  rw [plainByte_oneBlock (by decide), plain_of_cipherE8] at h2
  exact absurd h2 (by decide)

/-- Two equal blocks of ciphertext (P2). -/
theorem witness_EqualBlocksDecryptToEqualBlocks :
    ({ keyed keyC with len := 32 }.writeBlock 0 cipherC |>.writeBlock 1 cipherC).readBlock 0 =
      ({ keyed keyC with len := 32 }.writeBlock 0 cipherC |>.writeBlock 1 cipherC).readBlock 1 ∧
      0 < 32 / 16 ∧ 1 < 32 / 16 ∧ 32 ≤ base.params.msgBytes ∧ (keyed keyC).kwmask = 0b1111 := by
  refine ⟨Block.ext_byte fun i hi => ?_, by decide, by decide, by decide, rfl⟩
  rw [State.byte_readBlock _ _ hi, State.byte_readBlock _ _ hi]
  simp only [State.msgByte_writeBlock]
  rw [if_neg (by omega), if_pos (by omega), if_pos (by omega)]
  congr 1
  omega

/-- A state in which a command runs and that satisfies the invariant. -/
theorem witness_invariant_busy (w : Word) :
    Invariant (acceptCommand w base) ∧ (acceptCommand w base).busy = true := by
  refine ⟨?_, rfl⟩
  constructor <;>
    simp [acceptCommand, base, State.reset, Memory.wf, Block.zero, Block.col]
  intro j
  fin_cases j <;> rfl

/-- For EveryCommandCompletes, StepNeverStops and ResetAbandonsTheCommand. -/
theorem witness_EveryCommandCompletes :
    Invariant (acceptCommand 0x00000020 base) ∧ (acceptCommand 0x00000020 base).busy = true :=
  witness_invariant_busy _

/-- For StepKeepsInv. -/
theorem witness_StepKeepsInv :
    Invariant (acceptCommand 0x00000002 base) ∧
      gives (step (acceptCommand 0x00000002 base)) (fun t => t.done) = true :=
  ⟨(witness_invariant_busy _).1, by decide⟩

/-- A NOP running while the host waits: the core completes, the host reads BUSY = 0. -/
def waiting : State :=
  { acceptCommand 0x00000000 base with hostOps := [.wait], turns := [.core, .host] }

theorem witness_CoreMovesAndWaitEnds :
    Invariant waiting ∧ waiting.busy = true ∧ waiting.hostOps = .wait :: [] ∧
      gives (stepRun 2 waiting) (fun t => t.hostOps == [] && !t.busy) = true := by
  refine ⟨?_, rfl, rfl, by decide⟩
  obtain ⟨h, _⟩ := witness_invariant_busy 0x00000000
  constructor <;> first
    | exact h.msgSorted | exact h.msgInside | exact h.keyUnwritten | exact h.scheduleCleared
    | exact h.scheduleValid | exact h.errCode | exact h.errRange | exact h.busyClean
    | exact h.idlePhase | exact h.outlenInside | exact h.nblkInside | exact h.pendingRising
    | exact h.pendingInside | exact h.pendingPhase | exact h.ecbJob | exact h.epochPast

/-- For EveryRunEnds: a state whose run has not ended. -/
theorem witness_EveryRunEnds : Invariant waiting ∧ ¬ runEnded waiting :=
  ⟨witness_CoreMovesAndWaitEnds.1, fun h => absurd h.2 (by decide)⟩

theorem witness_SboxIsTheAffineImageOfTheInverse : gmul 0x53 0xCA = 1 := by decide

theorem witness_BusErrorsChangeNothing :
    (0x002 : Offset).toNat % 4 ≠ 0 ∧ (0x011 : Offset).toNat % 4 ≠ 0 ∧
      (0b0011 : BitVec 4) ≠ 0b1111 := by decide

/-- For the statements about CMD, STATUS, LEN, KEYj, STATEj and MSG: BUSY = 0 and BUSY = 1. -/
theorem witness_busy_and_idle :
    base.busy = false ∧ (acceptCommand 0x00000002 base).busy = true := by decide

/-- The first and the last offset of the windows of KEYj, STATEj, RKj and MSG. -/
theorem witness_register_windows :
    (0x020 : Offset).toNat = 0x020 + 4 * 0 ∧ (0x02C : Offset).toNat = 0x020 + 4 * 3 ∧
    (0x030 : Offset).toNat = 0x030 + 4 * 0 ∧ (0x03C : Offset).toNat = 0x030 + 4 * 3 ∧
    (0x100 : Offset).toNat = 0x100 + 4 * 0 ∧ (0x1AC : Offset).toNat = 0x100 + 4 * 43 ∧
    (0x1000 : Offset).toNat = 0x1000 + 0 ∧ (0x103C : Offset).toNat = 0x1000 + 60 ∧
    60 % 4 = 0 ∧ 60 < base.params.msgBytes := by decide

/-- Both ends of each range that the map does not assign. -/
theorem witness_UnassignedOffsetsReadZero :
    ∀ off ∈ ([0x01C, 0x040, 0x0FC, 0x1B0, 0xFFC, 0x1040, 0x1FFC] : List Offset),
      off.toNat % 4 = 0 ∧ (off.toNat = 0x01C ∨ (0x040 ≤ off.toNat ∧ off.toNat < 0x100) ∨
        (0x1B0 ≤ off.toNat ∧ off.toNat < 0x1000) ∨
        0x1000 + base.params.msgBytes ≤ off.toNat) := by
  have h : base.params.msgBytes = 64 := rfl
  simp [h]

/-- A read of STATUS (bits 4 and 11:8 free) and a read of STATE0 (all bits free) in a busy state. -/
theorem witness_ReadsWhileBusyShowNothingOfTheJob :
    inBlocks.busy = true ∧ regAt inBlocks.params 0x00C = .status ∧
      regAt inBlocks.params 0x030 = .state 0 := by decide

theorem witness_OnlyTheNamedInstructionsWrite :
    gives (exec .keyClear (keyed keyK)) (fun t => t.kwmask != (keyed keyK).kwmask) = true := by decide

theorem witness_RunningJobIsImmutable :
    racing.busy = true ∧ HostLine.wr 0x020 1 0b1111 ≠ .rst ∧
      gives (hostStep (.wr 0x020 1 0b1111) racing) (fun t => t.ovr) = true := by decide

/-- The four clauses of IrqFollowsDone. -/
theorem witness_IrqFollowsDone :
    gives (coreStep { racing with doneIe := true }) (fun t => !t.busy && t.irq) = true ∧
    gives (exec (.wr 0x018 1 0b1111) { base with done := true }) (fun t => t.irq) = true ∧
    gives (exec (.wr 0x00C 2 0b1111) { base with done := true, doneIe := true })
      (fun t => !t.irq) = true ∧
    gives (exec (.wr 0x008 0 0b1111) { base with done := true, doneIe := true })
      (fun t => !t.irq) = true := by decide

/-- The core moves; and it moves while the host's next line is a write to STATUS (the race of R250). -/
theorem witness_CompletionAndOverrunStayVisible :
    (∀ ls, { racing with ovr := true }.hostOps ≠ .rst :: ls) ∧
    (∀ d be ls, { racing with ovr := true }.hostOps ≠ .wr 0x00C d be :: ls) ∧
    gives (step { racing with ovr := true }) (fun t => t.done && t.ovr) = true ∧
    ¬ ({ racing with hostOps := [.wr 0x00C 2 0b1111] }.busy = false ∨
      agentChosen { racing with hostOps := [.wr 0x00C 2 0b1111] } = .host) ∧
    gives (step { racing with hostOps := [.wr 0x00C 2 0b1111] }) (fun t => t.done) = true :=
  ⟨fun _ => nofun, fun _ _ _ => nofun, by decide, by decide, by decide⟩

/-- An `expect` that holds, one that does not, and one at a misaligned offset that holds. -/
theorem witness_ExpectFailsOnAnotherValue :
    gives (hostStep (.expect 0x000 0xAE5D0107) base) (fun t => !t.hostFailed) = true ∧
    gives (hostStep (.expect 0x000 0) base) (fun t => t.hostFailed) = true ∧
    ∃ t, hostStep (.expect 0x001 (Config.anyWord base.draws)) base = .next t ∧
      t.hostFailed = false :=
  ⟨by decide, by decide, respond (.readErr (Config.anyWord base.draws)) (countDraw base),
    congrArg Host.Outcome.next (if_pos rfl), rfl⟩

end Sys2Proof.Tests
end

section
/-! SUPPORT. The family of 10_state.md: the invariant of the machine through every shared operation,
command and agent's step; which instruction writes which state; what reads and irq show. -/

namespace Sys2Proof

/-- The other columns after a write of KEYj or STATEj (R70, R71). -/
theorem Block.col_setCol_of_ne (x : Block) {j n : Fin 4} (c : Col) (h : n ≠ j) :
    (x.setCol j c).col n.val = x.col n.val := by
  fin_cases j <;> fin_cases n <;> first | rfl | exact absurd rfl h

theorem Col.byte_zero (r : Nat) : Col.zero.byte r = 0 := by
  unfold Col.byte
  split <;> rfl

end Sys2Proof

namespace Sys2Proof.Machine

/-! ### What a command, the finish step and a taken turn can do -/

theorem CmdError.code_ne_zero (e : CmdError) : e.code ≠ 0 := by cases e <;> decide

theorem CmdError.code_le_six (e : CmdError) : e.code.toNat ≤ 6 := by cases e <;> decide

theorem le_takeTurn_draws (s : State) : s.draws ≤ (takeTurn s).draws := by
  unfold takeTurn
  dsimp only
  split <;> omega

/-- What a command may have written when it finishes, ECB_DECRYPT that starts a job apart
(R130 to R133, R170 to R176, R201). -/
inductive CommandWrites (s : State) : State → Prop
  | nothing : CommandWrites s s
  | expandedKey : CommandWrites s (clearKey (installSchedule s))
  | clearedKey : CommandWrites s (clearKey s)
  | clearedSchedule : CommandWrites s (discardSchedule s)
  | state (v : Block) : CommandWrites s (setState v s)
  | block (b : Nat) (v : Block) (hb : b < s.params.msgBlocks) : CommandWrites s (s.writeBlock b v)
  | noOutput : CommandWrites s (setOutlen 0 s)

/-- Where a command can end: it finishes, or it is ECB_DECRYPT and starts its job (R98, R201). -/
theorem exec_command_cases {i : Instr} {s t : State} (hrd : ∀ off, i ≠ .rd off)
    (hwr : ∀ off d be, i ≠ .wr off d be) (h : exec i s = .next t) :
    (∃ e u, CommandWrites s u ∧ t = finish e u) ∨
    (i = .ecbDecrypt ∧ lengthLegal s.params s.len = true ∧ t = startJob (setOutlen 0 s)) := by
  cases i with
  | nop =>
    rw [exec_nop] at h; cases h
    exact .inl ⟨_, _, .nothing, rfl⟩
  | keyExpand =>
    rw [exec_keyExpand] at h; cases h
    split
    · exact .inl ⟨_, _, .nothing, rfl⟩
    · exact .inl ⟨_, _, .expandedKey, rfl⟩
  | keyClear =>
    rw [exec_keyClear] at h; cases h
    exact .inl ⟨_, _, .clearedKey, rfl⟩
  | schedClear =>
    rw [exec_schedClear] at h; cases h
    exact .inl ⟨_, _, .clearedSchedule, rfl⟩
  | loadState b =>
    rw [exec_loadState] at h; cases h
    split
    · exact .inl ⟨_, _, .state _, rfl⟩
    · exact .inl ⟨_, _, .nothing, rfl⟩
  | storeState b =>
    rw [exec_storeState] at h; cases h
    split
    · exact .inl ⟨_, _, .block b _ ‹_›, rfl⟩
    · exact .inl ⟨_, _, .nothing, rfl⟩
  | invShiftRows =>
    rw [exec_invShiftRows] at h; cases h
    exact .inl ⟨_, _, .state _, rfl⟩
  | invSubBytes =>
    rw [exec_invSubBytes] at h; cases h
    exact .inl ⟨_, _, .state _, rfl⟩
  | invMixColumns =>
    rw [exec_invMixColumns] at h; cases h
    exact .inl ⟨_, _, .state _, rfl⟩
  | addRoundKey r =>
    rw [exec_addRoundKey] at h; cases h
    split_ifs
    · exact .inl ⟨_, _, .nothing, rfl⟩
    · exact .inl ⟨_, _, .nothing, rfl⟩
    · exact .inl ⟨_, _, .state _, rfl⟩
  | decryptState =>
    rw [exec_decryptState] at h; cases h
    split
    · exact .inl ⟨_, _, .nothing, rfl⟩
    · exact .inl ⟨_, _, .state _, rfl⟩
  | ecbDecrypt =>
    rw [exec_ecbDecrypt] at h; cases h
    split_ifs with hl hk
    · exact .inl ⟨_, _, .noOutput, rfl⟩
    · exact .inl ⟨_, _, .noOutput, rfl⟩
    · exact .inr ⟨rfl, by simpa using hl, rfl⟩
  | rd off => exact absurd rfl (hrd off)
  | wr off d be => exact absurd rfl (hwr off d be)

/-- Where the finish step can end (R203 to R208); `ecbFinishStep_next` says when in which way. -/
theorem ecbFinishStep_cases {s t : State} (h : ecbFinishStep s = .next t) :
    s.len.toNat ≤ s.params.msgBytes ∧
    ((∃ n ≤ s.len.toNat, t = finish none (setOutlen n (discardSchedule s))) ∨
      t = raise .invalidPadding (setOutlen 0
        ((discardSchedule s).memWrite 0 (List.replicate s.len.toNat 0)))) := by
  by_cases hl : s.len.toNat < 16 ∨ s.params.msgBytes < s.len.toNat
  · unfold ecbFinishStep at h
    simp only at h
    rw [if_pos hl] at h
    cases h
  · have hle : s.len.toNat ≤ s.params.msgBytes := by omega
    rw [ecbFinishStep_next s (by omega) hle] at h
    cases h
    refine ⟨hle, ?_⟩
    split
    · exact .inl ⟨s.len.toNat - (s.msgByte (s.len.toNat - 1)).toNat, Nat.sub_le _ _, rfl⟩
    · split
      · exact .inl ⟨s.len.toNat, le_rfl, rfl⟩
      · exact .inr rfl

/-! ### The window map read backwards, for the registers a write can change (R61) -/

section
variable {p : Params} {off : Offset}

theorem offset_of_regAt_cmd (h : regAt p off = .cmd) : off = 0x008 :=
  BitVec.eq_of_toNat_eq (by simpa [h] using regAt_cases p off)

theorem offset_of_regAt_len (h : regAt p off = .len) : off = 0x010 :=
  BitVec.eq_of_toNat_eq (by simpa [h] using regAt_cases p off)

theorem offset_of_regAt_inten (h : regAt p off = .inten) : off = 0x018 :=
  BitVec.eq_of_toNat_eq (by simpa [h] using regAt_cases p off)

theorem offset_of_regAt_key {j : Fin 4} (h : regAt p off = .key j) :
    0x020 ≤ off.toNat ∧ off.toNat < 0x030 := by
  simpa [h] using regAt_cases p off

theorem offset_of_regAt_state {j : Fin 4} (h : regAt p off = .state j) :
    0x030 ≤ off.toNat ∧ off.toNat < 0x040 := by
  simpa [h] using regAt_cases p off

theorem offset_of_regAt_msg {a : Nat} (h : regAt p off = .msg a) :
    off.toNat = 0x1000 + a ∧ a < p.msgBytes := by
  have hc := regAt_cases p off
  simp only [h, reduceCtorEq, Reg.msg.injEq, false_and, exists_false, false_or, or_false] at hc
  obtain ⟨ha, hlo, hhi⟩ := hc
  omega

/-- An aligned offset of the MSG window names a whole word of the buffer (R73). -/
theorem msg_word_inside {a : Nat} (hmod : off.toNat % 4 = 0) (h : regAt p off = .msg a) :
    a + 4 ≤ p.msgBytes := by
  obtain ⟨ho, ha⟩ := offset_of_regAt_msg h
  rw [Params.msgBytes] at ha ⊢
  omega

end

/-! ### The invariant through each shared operation -/

/-- No step of an ECB job is to come: what its setup step leaves need not hold any more (R201). -/
def outsideJob (s : State) : Prop := s.phase ≠ .ecbBlocks ∧ s.phase ≠ .ecbFinish

theorem outsideJob_of_exec {s : State} (hp : s.phase = .exec) : outsideJob s := by
  simp [outsideJob, hp]

theorem outsideJob_of_idle {s : State} (hp : s.phase = .idle) : outsideJob s := by
  simp [outsideJob, hp]

theorem outsideJob_finish (e : Option CmdError) (s : State) : outsideJob (finish e s) :=
  outsideJob_of_idle rfl

theorem outsideJob.ecbJob {s : State} (h : outsideJob s) {P : Prop} :
    s.phase = .ecbBlocks ∨ s.phase = .ecbFinish → P :=
  fun hp => absurd hp (not_or.2 h)

namespace Invariant

variable {s : State}

theorem outsideJob (h : Invariant s) (hb : s.busy = false) : outsideJob s :=
  outsideJob_of_idle (h.idlePhase.2 hb)

theorem pending_eq_nil (h : Invariant s) (hp : s.phase ≠ .ecbBlocks) : s.pending = [] :=
  not_not.1 fun hne => hp (h.pendingPhase.2 hne)

/-- Nothing is asked of the response, of the host's program, or of whose turn it is. -/
theorem ofHostSide (h : Invariant s) {n : Nat} (hn : s.draws ≤ n) (r : Response) (f : Bool)
    (ls : List HostLine) (ts : List Agent) :
    Invariant { s with draws := n, resp := r, hostOps := ls, turns := ts, hostFailed := f } :=
  { h with epochPast := h.epochPast.trans hn }

theorem takeTurn (h : Invariant s) (ls : List HostLine) :
    Invariant { takeTurn s with hostOps := ls } :=
  h.ofHostSide (le_takeTurn_draws s) _ _ _ _

theorem respond (h : Invariant s) (r : Response) : Invariant (respond r s) := { h with }

theorem countDraw (h : Invariant s) : Invariant (countDraw s) :=
  h.ofHostSide (Nat.le_succ _) _ _ _ _

theorem setState (h : Invariant s) (v : Block) : Invariant (setState v s) := { h with }

theorem overrun (h : Invariant s) : Invariant (overrun s) := { h with }

theorem setDoneIe (h : Invariant s) (b : Bool) : Invariant { s with doneIe := b } := { h with }

/-- A write of LEN (R67) outside a job. -/
theorem setLen (h : Invariant s) (ho : Machine.outsideJob s) (l : BitVec 13) :
    Invariant { s with len := l } :=
  { h with ecbJob := ho.ecbJob }

/-- A write of KEYj (R70) outside a job: the columns still unwritten are the other ones. -/
theorem setKeyWord (h : Invariant s) (ho : Machine.outsideJob s) (j : Fin 4) (c : Col) :
    Invariant { s with key := s.key.setCol j c, kwmask := setKeyBit s.kwmask j } :=
  { h with
    keyUnwritten := fun n hn => by
      have hn' : n ≠ j ∧ s.kwmask.getLsbD n.val = false := by
        rw [getLsbD_setKeyBit] at hn
        simpa using hn
      exact (Block.col_setCol_of_ne s.key c hn'.1).trans (h.keyUnwritten n hn'.2)
    ecbJob := ho.ecbJob }

theorem clearKey (h : Invariant s) : Invariant (clearKey s) :=
  { h with
    keyUnwritten := fun n _ => by fin_cases n <;> rfl
    ecbJob := fun hp => by
      obtain ⟨hn, hl, hsv, -, -, hrest⟩ := h.ecbJob hp
      exact ⟨hn, hl, hsv, rfl, rfl, hrest⟩ }

theorem installSchedule (h : Invariant s) : Invariant (installSchedule s) :=
  { h with
    scheduleCleared := nofun
    scheduleValid := fun _ => ⟨s.key, rfl⟩
    ecbJob := fun hp => by
      obtain ⟨hn, hl, -, hrest⟩ := h.ecbJob hp
      exact ⟨hn, hl, rfl, hrest⟩ }

theorem discardSchedule (h : Invariant s) (ho : Machine.outsideJob s) :
    Invariant (discardSchedule s) :=
  { h with scheduleCleared := fun _ => rfl, scheduleValid := nofun, ecbJob := ho.ecbJob }

theorem setOutlen (h : Invariant s) (ho : Machine.outsideJob s) {n : Nat}
    (hn : n ≤ s.params.msgBytes) : Invariant (setOutlen n s) :=
  { h with
    outlenInside := by
      rw [setOutlen_outlen, BitVec.toNat_ofNat]
      exact (Nat.mod_le _ _).trans hn
    ecbJob := ho.ecbJob }

/-- A write of MSG inside the buffer (R75). -/
theorem memWrite (h : Invariant s) {a : Nat} {v : List Byte}
    (hv : a + v.length ≤ s.params.msgBytes) : Invariant (s.memWrite a v) :=
  { h with
    msgSorted := State.wf_memWrite a v h.msgSorted
    msgInside := fun c hc => (State.mem_memWrite hc).elim
      (fun ⟨_, hlt⟩ => hlt.trans_le hv) (h.msgInside c) }

theorem writeBlock (h : Invariant s) {b : Nat} (v : Block) (hb : b < s.params.msgBlocks) :
    Invariant (s.writeBlock b v) :=
  h.memWrite (by rw [Block.length_toList, Params.msgBytes]; omega)

/-- Acceptance (R95), with BUSY = 0. -/
theorem acceptCommand (h : Invariant s) (hb : s.busy = false) (d : Word) :
    Invariant (acceptCommand d s) :=
  { h with
    errCode := by simp
    errRange := by simp
    busyClean := fun _ => ⟨rfl, rfl⟩
    idlePhase := by simp
    pendingPhase := by simp [h.pending_eq_nil (h.outsideJob hb).1]
    ecbJob := by simp }

/-- `Finish(e)` (R98), with no block left pending. -/
theorem finish (h : Invariant s) (hp : s.phase ≠ .ecbBlocks) (e : Option CmdError) :
    Invariant (finish e s) :=
  { h with
    errCode := by
      cases e with
      | none => exact h.errCode
      | some e => simpa using e.code_ne_zero
    errRange := by
      cases e with
      | none => exact h.errRange
      | some e => exact e.code_le_six
    busyClean := nofun
    idlePhase := ⟨fun _ => rfl, fun _ => rfl⟩
    pendingPhase := ⟨nofun, fun hne => absurd (h.pending_eq_nil hp) hne⟩
    ecbJob := (outsideJob_finish e s).ecbJob }

/-- A write of STATUS (R66): ERR and ERRCODE are cleared together. -/
theorem clearStatus (h : Invariant s) (d : Word) : Invariant (clearStatus d s) :=
  { h with
    errCode := by
      rw [clearStatus_err, clearStatus_errcode]
      split
      · simp
      · exact h.errCode
    errRange := by
      rw [clearStatus_errcode]
      split
      · simp
      · exact h.errRange
    busyClean := fun hb => by
      obtain ⟨hdone, herr⟩ := h.busyClean hb
      simp [Machine.clearStatus, hdone, herr] }

/-- The reset (R280): every field of the core at its reset value. -/
theorem resetCore (s : State) : Invariant (resetCore s) where
  msgSorted := rfl
  msgInside := by simp
  keyUnwritten n _ := by fin_cases n <;> rfl
  scheduleCleared _ := rfl
  scheduleValid := by simp
  errCode := by simp
  errRange := by simp
  busyClean := by simp
  idlePhase := by simp
  outlenInside := by simp
  nblkInside := by simp
  pendingRising := by simp
  pendingInside := by simp
  pendingPhase := by simp
  ecbJob := by simp
  epochPast := by simp

/-- The job of R201 starts: a legal LEN names blocks of the buffer. -/
theorem startJob (h : Invariant s) (hp : s.phase = .exec) (hc : s.cmdl = 0x00000020)
    (ho : s.outlen = 0) (hl : lengthLegal s.params s.len = true) : Invariant (startJob s) := by
  obtain ⟨hne, hmod, hle⟩ := (lengthLegal_iff _ _).1 hl
  rw [Params.msgBytes] at hle
  have hnblk : 0 < s.len.toNat / 16 := by omega
  exact { h.installSchedule.clearKey with
    idlePhase := ⟨nofun, fun hb => absurd (h.idlePhase.2 hb) (by simp [hp])⟩
    nblkInside := by rw [startJob_nblk, startJob_params]; omega
    pendingRising := List.pairwise_lt_range
    pendingInside := fun b hb => List.mem_range.1 hb
    pendingPhase := by simp; omega
    ecbJob := fun _ =>
      ⟨hnblk, by rw [startJob_len, startJob_nblk]; omega, rfl, rfl, rfl, ho, hc⟩ }

/-- The block step (R202) on a block of the buffer. -/
theorem blockDone (h : Invariant s) (hp : s.phase = .ecbBlocks) {b : Nat}
    (hb : b < s.params.msgBlocks) : Invariant (blockDone b s) := by
  have hjob := h.ecbJob (.inl hp)
  have hbusy : s.busy ≠ false := fun hf => by simpa [hp] using h.idlePhase.2 hf
  have hw := h.writeBlock (invCipher (s.readBlock b) s.rk) hb
  unfold Machine.blockDone
  exact { h with
    msgSorted := hw.msgSorted
    msgInside := hw.msgInside
    idlePhase := by dsimp only; split <;> simpa using hbusy
    pendingRising := h.pendingRising.sublist List.erase_sublist
    pendingInside := fun c hc => h.pendingInside c (List.mem_of_mem_erase hc)
    pendingPhase := by dsimp only; split <;> simp_all
    ecbJob := fun _ => hjob }

/-! ### The invariant through each command and each agent's step -/

/-- What a command writes before it finishes keeps the invariant, and the job's PHASE. -/
theorem of_commandWrites (h : Invariant s) (hp : s.phase = .exec) {u : State}
    (hu : CommandWrites s u) : Invariant u ∧ u.phase = .exec := by
  have ho := outsideJob_of_exec hp
  cases hu with
  | nothing => exact ⟨h, hp⟩
  | expandedKey => exact ⟨h.installSchedule.clearKey, hp⟩
  | clearedKey => exact ⟨h.clearKey, hp⟩
  | clearedSchedule => exact ⟨h.discardSchedule ho, hp⟩
  | state v => exact ⟨h.setState v, hp⟩
  | block b v hb => exact ⟨h.writeBlock v hb, hp⟩
  | noOutput => exact ⟨h.setOutlen ho (Nat.zero_le _), hp⟩

/-- The latched command performed (R97). -/
theorem exec_command (h : Invariant s) (hp : s.phase = .exec) {i : Instr} {t : State}
    (hd : decode s.cmdl = .ok i) (ht : exec i s = .next t) : Invariant t := by
  obtain ⟨hrd, hwr⟩ := decode_ok_command hd
  obtain ⟨e, u, hu, rfl⟩ | ⟨rfl, hl, rfl⟩ := exec_command_cases hrd hwr ht
  · obtain ⟨hinv, hpu⟩ := h.of_commandWrites hp hu
    exact hinv.finish (by simp [hpu]) e
  · exact (h.setOutlen (outsideJob_of_exec hp) (Nat.zero_le _)).startJob hp
      (cmdl_of_decode_ecbDecrypt hd) rfl hl

/-- The finish step (R203 to R208). `Finish` is put first, since it is what ends the job whose
schedule is discarded. -/
theorem ecbFinishStep (h : Invariant s) (hp : s.phase = .ecbFinish) {t : State}
    (ht : ecbFinishStep s = .next t) : Invariant t := by
  have hpb : s.phase ≠ .ecbBlocks := by simp [hp]
  obtain ⟨hl, ⟨n, hn, rfl⟩ | rfl⟩ := ecbFinishStep_cases ht
  · have ho := outsideJob_finish none s
    exact ((h.finish hpb none).discardSchedule ho).setOutlen ho (hn.trans hl)
  · have ho := outsideJob_finish (some .invalidPadding) s
    refine ((((h.finish hpb (some .invalidPadding)).discardSchedule ho).memWrite ?_).setOutlen ho
      (Nat.zero_le _))
    simpa using hl

/-- A core step (R97). -/
theorem coreStep (h : Invariant s) {t : State} (ht : coreStep s = .next t) : Invariant t := by
  obtain ⟨hp, i, hd, hi⟩ | ⟨hp, -, rfl⟩ | ⟨hp, -, hb⟩ | ⟨hp, hf⟩ := coreStep_cases ht
  · exact h.exec_command hp hd hi
  · exact h.finish (by simp [hp]) _
  · obtain ⟨hin, rfl⟩ := decryptBlock_cases hb
    exact h.countDraw.blockDone hp hin
  · exact h.ecbFinishStep hp hf

/-- The write rule of a register that takes the write (R62 to R73, R83). -/
theorem writeRegIdle (h : Invariant s) {r : Reg} (hr : s.busy = false ∨ r.isProtected = false)
    (hm : ∀ a, r = .msg a → a + 4 ≤ s.params.msgBytes) (d : Word) :
    Invariant (writeRegIdle r d s) := by
  cases r with
  | id | param | outlen | rk | unassigned => exact h
  | status => exact h.clearStatus d
  | inten => exact h.setDoneIe _
  | state j => exact h.setState _
  | msg a => exact h.memWrite (hm a rfl)
  | cmd => exact h.acceptCommand (by simpa [Reg.isProtected] using hr) d
  | len => exact h.setLen (h.outsideJob (by simpa [Reg.isProtected] using hr)) _
  | key j => exact h.setKeyWord (h.outsideJob (by simpa [Reg.isProtected] using hr)) j _

/-- A write of the host (R78). -/
theorem exec_wr (h : Invariant s) {off : Offset} {d : Word} {be : BitVec 4} {t : State}
    (ht : exec (.wr off d be) s = .next t) : Invariant t := by
  rcases execWr_cases ht with ⟨-, rfl⟩ | ⟨-, -, -, rfl⟩ | ⟨hal, hr, rfl⟩
  · exact h.respond _
  · exact h.overrun.respond _
  · refine (h.writeRegIdle hr (fun a ha => ?_) d).respond _
    have hmod : off.toNat % 4 = 0 := (aligned_iff off).1 (by simp_all)
    exact msg_word_inside hmod ha

/-- A step of the host or the environment (R101, R104, R280). -/
theorem hostStep (h : Invariant s) {l : HostLine} {t : State} (ht : hostStep l s = .next t) :
    Invariant t := by
  obtain ⟨-, rfl⟩ | ⟨off, d, be, -, hwr⟩ | ⟨r, ls, f, rfl⟩ := hostStep_cases ht
  · exact resetCore s
  · exact h.exec_wr hwr
  · exact h.ofHostSide (Nat.le_succ _) r f ls s.turns

end Invariant

/-- Settles O53, by the step's cases: nothing happens, the core steps, or the host does. -/
theorem stepKeepsInv : Obligations.StepKeepsInv := by
  intro s t h ht
  obtain ⟨-, -, rfl⟩ | ⟨-, -, hc⟩ | ⟨l, ls, -, -, hh⟩ := step_cases ht
  · exact h
  · exact (h.takeTurn s.hostOps).coreStep hc
  · exact (h.takeTurn ls).hostStep hh


/-! ### Which instructions write which state -/

/-- What a write to a register leaves unchanged (R61 to R78). -/
structure WriteFrame (r : Reg) (s t : State) : Prop where
  key : t.key ≠ s.key ∨ t.kwmask ≠ s.kwmask → ∃ j, r = .key j
  schedule : sameSchedule s t
  state : t.state ≠ s.state → ∃ j, r = .state j
  msg : ¬ sameMsg s t → ∃ a, r = .msg a
  len : t.len ≠ s.len → r = .len
  outlen : t.outlen = s.outlen
  doneIe : t.doneIe ≠ s.doneIe → r = .inten
  cmdl : t.cmdl ≠ s.cmdl → r = .cmd
  job : t.pending = s.pending ∧ t.nblk = s.nblk
  params : t.params = s.params

theorem WriteFrame.refl (r : Reg) (s : State) : WriteFrame r s s := by
  constructor <;> simp [sameSchedule, sameMsg]

/-- The response and STATUS are in no frame. -/
theorem WriteFrame.respond {r : Reg} {s t : State} (h : WriteFrame r s t) (p : Response) :
    WriteFrame r s (respond p t) := { h with }

theorem WriteFrame.overrun {r : Reg} {s t : State} (h : WriteFrame r s t) :
    WriteFrame r s (overrun t) := { h with }

theorem WriteFrame.clearStatus {r : Reg} {s t : State} (h : WriteFrame r s t) (d : Word) :
    WriteFrame r s (clearStatus d t) := { h with }

/-- The write rule of a register writes that register. -/
theorem writeRegIdle_frame (r : Reg) (d : Word) (s : State) :
    WriteFrame r s (writeRegIdle r d s) := by
  have h := WriteFrame.refl r s
  cases r with
  | id | param | outlen | rk | unassigned => exact h
  | status => exact h.clearStatus d
  | cmd => exact { h with cmdl := fun _ => rfl }
  | len => exact { h with len := fun _ => rfl }
  | inten => exact { h with doneIe := fun _ => rfl }
  | key j => exact { h with key := fun _ => ⟨j, rfl⟩ }
  | state j => exact { h with state := fun _ => ⟨j, rfl⟩ }
  | msg a => exact { h with msg := fun _ => ⟨a, rfl⟩ }

theorem exec_wr_frame {off : Offset} {d : Word} {be : BitVec 4} {s t : State}
    (h : exec (.wr off d be) s = .next t) : WriteFrame (regAt s.params off) s t := by
  rcases execWr_cases h with ⟨-, rfl⟩ | ⟨-, -, -, rfl⟩ | ⟨-, -, rfl⟩
  · exact (WriteFrame.refl _ s).respond _
  · exact (WriteFrame.refl _ s).overrun.respond _
  · exact (writeRegIdle_frame _ d s).respond _

/-- Settles O55, instruction by instruction. -/
theorem onlyTheNamedInstructionsWrite : Obligations.OnlyTheNamedInstructionsWrite := by
  intro i s t h
  cases i with
  | nop => rw [exec_nop] at h; cases h; simp [sameMsg]
  | keyExpand => rw [exec_keyExpand] at h; cases h; split <;> simp [sameMsg]
  | keyClear => rw [exec_keyClear] at h; cases h; simp [sameMsg]
  | schedClear => rw [exec_schedClear] at h; cases h; simp [sameMsg]
  | loadState b => rw [exec_loadState] at h; cases h; split <;> simp [sameMsg]
  | storeState b => rw [exec_storeState] at h; cases h; split <;> simp
  | invShiftRows => rw [exec_invShiftRows] at h; cases h; simp [sameMsg]
  | invSubBytes => rw [exec_invSubBytes] at h; cases h; simp [sameMsg]
  | invMixColumns => rw [exec_invMixColumns] at h; cases h; simp [sameMsg]
  | addRoundKey r => rw [exec_addRoundKey] at h; cases h; split_ifs <;> simp [sameMsg]
  | decryptState => rw [exec_decryptState] at h; cases h; split <;> simp [sameMsg]
  | ecbDecrypt => rw [exec_ecbDecrypt] at h; cases h; split_ifs <;> simp [sameMsg]
  | rd off => obtain ⟨r, rfl⟩ := execRd_cases h; simp [sameMsg]
  | wr off d be =>
    have hf := exec_wr_frame h
    refine ⟨fun hk => ?_, fun hs => ?_, fun hs => ?_, fun hm => ?_, fun hl => ?_, fun ho => ?_,
      fun hi => ?_, fun hc => ?_, fun hj => ?_, hf.params⟩
    · obtain ⟨j, hr⟩ := hf.key hk
      exact .inr (.inr (.inr ⟨off, d, be, rfl, offset_of_regAt_key hr⟩))
    · exact absurd hf.schedule (not_and_or.2 hs)
    · obtain ⟨j, hr⟩ := hf.state hs
      simpa using offset_of_regAt_state hr
    · obtain ⟨a, hr⟩ := hf.msg hm
      obtain ⟨ho, -⟩ := offset_of_regAt_msg hr
      exact .inr ⟨off, d, be, rfl, by omega⟩
    · exact ⟨d, be, by rw [offset_of_regAt_len (hf.len hl)]⟩
    · exact absurd hf.outlen ho
    · exact ⟨d, be, by rw [offset_of_regAt_inten (hf.doneIe hi)]⟩
    · exact ⟨d, be, by rw [offset_of_regAt_cmd (hf.cmdl hc)]⟩
    · exact absurd hf.job (not_and_or.2 hj)

/-! ### The reset values -/

theorem rkByte_zero (k : Nat) : rkByte Schedule.zero k = 0 := by
  have hw : schedWord Schedule.zero (k / 4) = Col.zero := by
    rw [schedWord, Schedule.zero, Vector.toList_replicate, List.getD_eq_getElem?_getD,
      List.getElem?_replicate]
    split <;> rfl
  rw [rkByte, hw, Col.byte_zero]

/-- Settles O51: the words of RKB by `rkByte_zero`, every other field by its definition. -/
theorem resetValues : Obligations.ResetValues :=
  ⟨rfl, rfl, fun k _ => rkByte_zero k, rfl, rfl, rfl, rfl, rfl, rfl, rfl, rfl, rfl, rfl, rfl, rfl,
    rfl, rfl, rfl⟩

/-- Settles O52: as after any reset event, but for the counters of the model. -/
theorem invHoldsAtReset : Obligations.InvHoldsAtReset :=
  { Invariant.resetCore State.reset with epochPast := le_rfl }

/-! ### Reads and the key -/

/-- No register's value is made from KEY (R22, R70). -/
theorem readReg_withKey (s : State) (k : Block) (any : Word) (r : Reg) :
    readReg { s with key := k } any r = readReg s any r := by
  cases r <;> rfl

/-- Settles O49: the response is the only place where KEY could show. -/
theorem noReadRevealsTheKey : Obligations.NoReadRevealsTheKey := by
  intro s k off
  refine ⟨_, rfl, ?_⟩
  simp only [exec, execRd, readReg_withKey]
  rfl

/-! ### irq -/

theorem CommandWrites.doneIe_eq {s u : State} (h : CommandWrites s u) : u.doneIe = s.doneIe := by
  cases h <;> rfl

/-- A core step that ends with BUSY = 0 has finished a command (R97, R98). -/
theorem coreStep_done {s t : State} (hb : s.busy = true) (h : coreStep s = .next t)
    (ht : t.busy = false) : t.done = true ∧ t.doneIe = s.doneIe := by
  rcases coreStep_cases h with ⟨-, i, hd, hi⟩ | ⟨-, -, rfl⟩ | ⟨-, -, hblk⟩ | ⟨-, hf⟩
  · obtain ⟨hrd, hwr⟩ := decode_ok_command hd
    obtain ⟨e, u, hu, rfl⟩ | ⟨-, -, rfl⟩ := exec_command_cases hrd hwr hi
    · exact ⟨rfl, hu.doneIe_eq⟩
    · simp [hb] at ht
  · exact ⟨rfl, rfl⟩
  · obtain ⟨-, rfl⟩ := decryptBlock_cases hblk
    simp [hb] at ht
  · obtain ⟨-, ⟨n, -, rfl⟩ | rfl⟩ := ecbFinishStep_cases hf <;> exact ⟨rfl, rfl⟩

theorem eq_of_writeLeaves {s t u : State} {off : Offset} {d : Word} (hu : writeLeaves s off d u)
    (h : exec (.wr off d 0b1111) s = .next t) : t = { u with resp := .writeOk } :=
  Host.Outcome.next.inj (h.symm.trans hu)

theorem irq_clearStatus {d : Word} (s : State) (hd : d.getLsbD 1 = true) :
    (clearStatus d s).irq = false := by
  simp only [State.irq, clearStatus_done, hd, if_true, Bool.and_false]

theorem irq_acceptCommand (d : Word) (s : State) : (acceptCommand d s).irq = false := by
  simp [State.irq]

/-- Settles O58: the finish of a command, then the writes of INTEN, STATUS and CMD. -/
theorem irqFollowsDone : Obligations.IrqFollowsDone := by
  intro s t d
  refine ⟨fun hb h ht => ?_, fun h => ?_, fun h hd => ?_, fun h hb => ?_⟩
  · obtain ⟨hdone, hie⟩ := coreStep_done hb h ht
    simp [State.irq, hdone, hie]
  · rw [eq_of_writeLeaves (exec_wr_taken s (by decide) d (.inr rfl)) h]
    rfl
  · rw [eq_of_writeLeaves (exec_wr_taken s (by decide) d (.inr rfl)) h]
    exact irq_clearStatus s hd
  · rw [eq_of_writeLeaves (exec_wr_taken s (by decide) d (.inl hb)) h]
    exact irq_acceptCommand d s

end Sys2Proof.Machine
end

section
/-! SUPPORT. The family of 20_memory.md: what each offset of the host window reads and what a write of it
does, what stays as it is while BUSY = 1, and whose step comes next. -/

namespace Sys2Proof

/-- A word of a block or of the schedule on the bus is its bytes `4j` to `4j+3` (R11, R74). -/
theorem Col.toWord_eq_bytes (f : Nat → Col) (j : Nat) : (f j).toWord =
    (f (4 * j / 4)).byte (4 * j % 4) ++ (f ((4 * j + 1) / 4)).byte ((4 * j + 1) % 4) ++
      (f ((4 * j + 2) / 4)).byte ((4 * j + 2) % 4) ++
      (f ((4 * j + 3) / 4)).byte ((4 * j + 3) % 4) := by
  rw [show 4 * j / 4 = j by omega, show (4 * j + 1) / 4 = j by omega,
    show (4 * j + 2) / 4 = j by omega, show (4 * j + 3) / 4 = j by omega,
    show 4 * j % 4 = 0 by omega, show (4 * j + 1) % 4 = 1 by omega,
    show (4 * j + 2) % 4 = 2 by omega, show (4 * j + 3) % 4 = 3 by omega]
  rfl

end Sys2Proof

namespace Sys2Proof.Machine

/-! ### An access by the register that its offset names -/

theorem offset_of_regAt_status {p : Params} {off : Offset} (h : regAt p off = .status) :
    off = 0x00C :=
  BitVec.eq_of_toNat_eq (by simpa [h] using regAt_cases p off)

/-- The offsets that the map leaves out (R61): read backwards, it names others for each register. -/
theorem regAt_unassigned (p : Params) {off : Offset}
    (h : off.toNat = 0x01C ∨ (0x040 ≤ off.toNat ∧ off.toNat < 0x100) ∨
      (0x1B0 ≤ off.toNat ∧ off.toNat < 0x1000) ∨ 0x1000 + p.msgBytes ≤ off.toNat) :
    regAt p off = .unassigned := by
  by_contra hne
  have hcases := regAt_cases p off
  simp only [hne, or_false] at hcases
  rcases hcases with ⟨-, e⟩ | ⟨-, e⟩ | ⟨-, e⟩ | ⟨-, e⟩ | ⟨-, e⟩ | ⟨-, e⟩ | ⟨-, e⟩ | ⟨j, -, e⟩ |
    ⟨j, -, e⟩ | ⟨j, -, e⟩ | ⟨-, e⟩
  all_goals omega

section
variable {s : State} {off : Offset} {r : Reg}

theorem readAnswers_of_regAt (hmod : off.toNat % 4 = 0) (hr : regAt s.params off = r) :
    readAnswers s off (readReg s (Config.anyWord s.draws) r) :=
  hr ▸ exec_rd_aligned s hmod

theorem writeLeaves_of_regAt (hmod : off.toNat % 4 = 0) (hr : regAt s.params off = r) (d : Word)
    (ht : s.busy = false ∨ r.isProtected = false) :
    writeLeaves s off d (writeRegIdle r d s) := by
  subst hr
  exact exec_wr_taken s hmod d ht

theorem writeDropped_of_regAt (hmod : off.toNat % 4 = 0) (hr : regAt s.params off = r) (d : Word)
    (hb : s.busy = true) (hp : r.isProtected = true) : writeDropped s off d :=
  exec_wr_dropped s hmod d hb (hr ▸ hp)

/-- While BUSY = 0 no register reads ANY_32 (R82). -/
theorem unlessBusy_of_idle (hb : s.busy = false) (any v : Word) : unlessBusy s any v = v := by
  simp [unlessBusy, hb]

end

/-! ### Bus errors -/

theorem aligned_eq_false {off : Offset} (h : off.toNat % 4 ≠ 0) : aligned off = false :=
  Bool.eq_false_iff.2 fun ha => h ((aligned_iff off).1 ha)

/-- Settles O37: neither operation reaches a register. -/
theorem busErrorsChangeNothing : Obligations.BusErrorsChangeNothing := by
  intro s off d be
  refine ⟨fun h => ⟨Config.anyWord s.draws, ?_⟩, fun h => ?_⟩
  · simp only [exec, execRd, aligned_eq_false h]
    rfl
  · have hbad : (aligned off && fullWord be) = false := by
      rcases h with h | h
      · simp [aligned_eq_false h]
      · rw [fullWord, beq_false_of_ne h, Bool.and_false]
    simp only [exec, execWr, hbad]
    rfl

/-! ### The registers below 0x020 -/

theorem extractLsb'_ofNat_of_lt {n start : Nat} (h : n < 2 ^ start) (len : Nat) :
    (BitVec.ofNat 32 n).extractLsb' start len = 0 := by
  apply BitVec.eq_of_toNat_eq
  have hmod : n % 2 ^ 32 < 2 ^ start := (Nat.mod_le _ _).trans_lt h
  rw [BitVec.extractLsb'_toNat, BitVec.toNat_ofNat, Nat.shiftRight_eq_div_pow,
    Nat.div_eq_of_lt hmod, Nat.zero_mod]
  rfl

/-- The fields of PARAM (R64); MSG_BLOCKS fits in nine bits by its type (R8). -/
theorem paramWord_fields (p : Params) :
    ((paramWord p).extractLsb' 0 9).toNat = p.msgBlocks ∧ (paramWord p).extractLsb' 9 7 = 0 ∧
      ((paramWord p).getLsbD 16 = true ↔ p.padPolicy = .strict) ∧
      (paramWord p).extractLsb' 17 15 = 0 := by
  have hlt : p.msgBlocks < 2 ^ 9 := by have := p.lastBlock.isLt; rw [Params.msgBlocks]; omega
  have hlow : ((BitVec.ofNat 32 p.msgBlocks).extractLsb' 0 9).toNat = p.msgBlocks := by
    rw [BitVec.extractLsb'_toNat, BitVec.toNat_ofNat, Nat.shiftRight_zero]
    omega
  have hpad := extractLsb'_ofNat_of_lt hlt 7
  have hbit : (BitVec.ofNat 32 p.msgBlocks)[16] = false := by
    rw [← BitVec.getLsbD_eq_getElem, BitVec.getLsbD_ofNat, Nat.testBit_lt_two_pow (by omega), Bool.and_false]
  have hhigh := extractLsb'_ofNat_of_lt (start := 17) (by omega : p.msgBlocks < 2 ^ 17) 15
  unfold paramWord
  cases p.padPolicy <;> simp [BitVec.extractLsb'_or, hlow, hpad, hbit, hhigh]

/-- Settles O38: two constant reads, and writes of registers that keep none. -/
theorem idAndParamRead : Obligations.IdAndParamRead := by
  intro s d
  have hread := exec_rd_aligned s (off := 0x004) (by decide)
  exact ⟨exec_rd_aligned s (by decide), exec_wr_taken s (by decide) d (.inr rfl),
    exec_wr_taken s (by decide) d (.inr rfl), paramWord s.params, hread, paramWord_fields _⟩

theorem getLsbD_statusFreeMask (i : Nat) :
    statusFreeMask.getLsbD i = decide (i = 4 ∨ 8 ≤ i ∧ i < 12) := by
  by_cases h : i < 32
  · revert h
    revert i
    decide
  · rw [BitVec.getLsbD_of_ge _ _ (by omega)]
    symm
    simp
    omega

/-- The bits of STATUS as read that are not free (R66, R82). -/
theorem getLsbD_readReg_status (s : State) (any : Word) {i : Nat}
    (h : s.busy = false ∨ statusFreeMask.getLsbD i = false) :
    (readReg s any .status).getLsbD i = (statusWord s).getLsbD i := by
  unfold readReg
  cases hb : s.busy with
  | false => simp
  | true =>
    have hfree : statusFreeMask.getLsbD i = false := by simpa [hb] using h
    by_cases hi : i < 32
    · simp only [if_true, BitVec.getLsbD_or, BitVec.getLsbD_and, BitVec.getLsbD_not, hfree, hi]
      simp
    · rw [BitVec.getLsbD_of_ge _ _ (by omega), BitVec.getLsbD_of_ge _ _ (by omega)]

/-- A field of STATUS as read that is not free. -/
theorem extractLsb'_readReg_status (s : State) (any : Word) {start len : Nat}
    (h : s.busy = false ∨ ∀ i < len, statusFreeMask.getLsbD (start + i) = false) :
    (readReg s any .status).extractLsb' start len = (statusWord s).extractLsb' start len := by
  refine BitVec.eq_of_getLsbD_eq fun i hi => ?_
  rw [BitVec.getLsbD_extractLsb', BitVec.getLsbD_extractLsb',
    getLsbD_readReg_status s any (h.imp_right fun h => h i hi)]

/-- The fields of STATUS of more than one bit, and the reserved ones (R31, R66). -/
theorem statusWord_fields (s : State) :
    (statusWord s).extractLsb' 8 4 = s.kwmask ∧ (statusWord s).extractLsb' 5 3 = 0 ∧
      (statusWord s).extractLsb' 12 4 = 0 ∧ (statusWord s).extractLsb' 16 4 = s.errcode ∧
      (statusWord s).extractLsb' 20 12 = 0 := by
  refine ⟨?_, ?_, ?_, ?_, ?_⟩
  all_goals
    refine BitVec.eq_of_getLsbD_eq fun i hi => ?_
    rw [BitVec.getLsbD_extractLsb', getLsbD_statusWord]
    interval_cases i <;> simp

theorem clearStatus_eq (d : Word) (s : State) : clearStatus d s = { s with
    done := s.done && !d.getLsbD 1
    err := s.err && !d.getLsbD 2
    errcode := if d.getLsbD 2 then 0 else s.errcode
    ovr := s.ovr && !d.getLsbD 3 } := by
  unfold clearStatus
  cases d.getLsbD 1 <;> cases d.getLsbD 2 <;> cases d.getLsbD 3 <;> simp

/-- Settles O41: the bits of `statusWord` outside the mask of the free ones, and `clearStatus`. -/
theorem statusReadAndWrite : Obligations.StatusReadAndWrite := by
  intro s d
  have hbit {i : Nat} (h : s.busy = false ∨ statusFreeMask.getLsbD i = false) :=
    (getLsbD_readReg_status s (Config.anyWord s.draws) h).trans (getLsbD_statusWord s i)
  have hfield {start len : Nat} :=
    extractLsb'_readReg_status s (Config.anyWord s.draws) (start := start) (len := len)
  obtain ⟨hkwmask, hlow, hmid, herrcode, hhigh⟩ := statusWord_fields s
  refine ⟨⟨_, readAnswers_of_regAt (by decide) rfl, hbit (.inr rfl), hbit (.inr rfl),
    hbit (.inr rfl), hbit (.inr rfl),
    fun hb => ⟨hbit (.inl hb), (hfield (.inl hb)).trans hkwmask⟩,
    (hfield (.inr (by decide))).trans hlow, (hfield (.inr (by decide))).trans hmid,
    (hfield (.inr (by decide))).trans herrcode, (hfield (.inr (by decide))).trans hhigh⟩, ?_⟩
  rw [← clearStatus_eq]
  exact exec_wr_taken s (by decide) d (.inr rfl)

/-- Settles O42: LEN is a protected register of 13 bits, read at any time. -/
theorem lenReadAndWrite : Obligations.LenReadAndWrite := by
  intro s d
  refine ⟨⟨s.len.zeroExtend 32, exec_rd_aligned s (by decide), ?_⟩, fun hb => ?_, fun hb => ?_⟩
  · simp only [BitVec.truncate_eq_setWidth, BitVec.toNat_setWidth]
    have := s.len.isLt
    omega
  · exact exec_wr_taken s (by decide) d (.inl hb)
  · exact exec_wr_dropped s (by decide) d hb rfl

/-- Settles O44: INTEN is not protected. -/
theorem intenReadAndWrite : Obligations.IntenReadAndWrite := by
  intro s d
  have hval : (BitVec.ofBool s.doneIe).zeroExtend 32 = if s.doneIe then 1 else 0 := by
    cases s.doneIe <;> rfl
  refine ⟨?_, exec_wr_taken s (by decide) d (.inr rfl)⟩
  rw [← hval]
  exact exec_rd_aligned s (by decide)

/-! ### OUTLEN and the windows of KEY, STATE, RKB and MSG -/

/-- Settles O43: neither register has a write rule; word `j` of RKB is its bytes `4j` to `4j+3`. -/
theorem outlenAndRkRead : Obligations.OutlenAndRkRead := by
  intro s d
  refine ⟨⟨_, readAnswers_of_regAt (r := .outlen) (by decide) rfl, fun hb => ?_⟩,
    exec_wr_taken s (by decide) d (.inr rfl), fun j off hj hoff => ?_⟩
  · simp only [readReg, unlessBusy_of_idle hb, BitVec.truncate_eq_setWidth, BitVec.toNat_setWidth]
    have := s.outlen.isLt
    omega
  · have hmod : off.toNat % 4 = 0 := by omega
    have hr := regAt_rk s.params hj hoff
    refine ⟨⟨_, readAnswers_of_regAt hmod hr, fun hb => ?_⟩,
      writeLeaves_of_regAt hmod hr d (.inr rfl)⟩
    exact (unlessBusy_of_idle hb _ _).trans (Col.toWord_eq_bytes (schedWord s.rk) j)

/-- A block after a write of the bus word `d` to its column `j`, byte by byte (R70, R71, R74). -/
theorem byte_setCol_ofWord (x : Block) (j : Fin 4) (d : Word) {i : Nat} (hi : i < 16) :
    (x.setCol j (Col.ofWord d)).byte i =
      if i / 4 = j.val then d.extractLsb' (24 - 8 * (i % 4)) 8 else x.byte i := by
  rw [Block.byte_setCol x j _ hi, Col.byte_ofWord d (Nat.mod_lt _ (by decide))]

/-- Settles O45: KEYj reads no byte of KEY, and its write replaces column `j`. -/
theorem keyWordWrite : Obligations.KeyWordWrite := by
  intro s d j off hj hoff
  have hmod : off.toNat % 4 = 0 := by omega
  have hr := regAt_key s.params hj hoff
  refine ⟨readAnswers_of_regAt hmod hr, fun hb => writeDropped_of_regAt hmod hr d hb rfl,
    fun hb => ⟨_, _, writeLeaves_of_regAt hmod hr d (.inl hb),
      fun i hi => byte_setCol_ofWord s.key ⟨j, hj⟩ d hi, fun n hn => ?_⟩⟩
  simpa using getLsbD_setKeyBit s.kwmask ⟨j, hj⟩ ⟨n, hn⟩

/-- Settles O46: STATEj is column `j` of STATE. -/
theorem stateWordReadAndWrite : Obligations.StateWordReadAndWrite := by
  intro s d j off hj hoff
  have hmod : off.toNat % 4 = 0 := by omega
  have hr := regAt_state s.params hj hoff
  exact ⟨⟨_, readAnswers_of_regAt hmod hr, fun hb =>
      (unlessBusy_of_idle hb _ _).trans (Col.toWord_eq_bytes s.state.col j)⟩,
    fun hb => writeDropped_of_regAt hmod hr d hb rfl,
    fun hb => ⟨_, writeLeaves_of_regAt hmod hr d (.inl hb),
      fun i hi => byte_setCol_ofWord s.state ⟨j, hj⟩ d hi⟩⟩

/-- MSG after a write of the bus word `d` at offset `a`, byte by byte (R73, R74). -/
theorem msgByte_memWrite_ofWord (s : State) (a x : Nat) (d : Word) :
    (s.memWrite a (Col.ofWord d).toList).msgByte x =
      if a ≤ x ∧ x < a + 4 then d.extractLsb' (24 - 8 * (x - a)) 8 else s.msgByte x := by
  rw [State.msgByte_memWrite, Col.length_toList]
  split
  case isTrue hx =>
    have hk : x - a < 4 := by omega
    rw [List.getD_eq_getElem (hn := hk), Col.getElem_toList _ hk, Col.byte_ofWord d hk]
  case isFalse => rfl

/-- Settles O47: the word at an aligned offset of the window is four bytes of MSG. -/
theorem msgWindowReadAndWrite : Obligations.MsgWindowReadAndWrite := by
  intro s d a off ha4 ha hoff
  have hmod : off.toNat % 4 = 0 := by omega
  have hr := regAt_msg s.params ha hoff
  exact ⟨⟨_, readAnswers_of_regAt hmod hr, fun hb => unlessBusy_of_idle hb _ (s.msgWord a)⟩,
    fun hb => writeDropped_of_regAt hmod hr d hb rfl,
    fun hb => ⟨(s.memWrite a (Col.ofWord d).toList).msg, writeLeaves_of_regAt hmod hr d (.inl hb),
      fun x => msgByte_memWrite_ofWord s a x d⟩⟩

/-- Settles O48: the map sends these offsets to the register that reads 0 and has no write rule. -/
theorem unassignedOffsetsReadZero : Obligations.UnassignedOffsetsReadZero := by
  intro s d off hmod h
  have hr := regAt_unassigned s.params h
  exact ⟨readAnswers_of_regAt hmod hr, writeLeaves_of_regAt hmod hr d (.inr rfl)⟩

/-! ### While BUSY = 1 -/

/-- STATUS read while BUSY = 1: SV and KWMASK are masked out, every other bit is a field that no
job input shows in (R66, R82). -/
theorem readReg_status_congr {s t : State} (any : Word) (hs : s.busy = true)
    (ht : t.busy = true) (hdone : t.done = s.done) (herr : t.err = s.err) (hovr : t.ovr = s.ovr)
    (hcode : t.errcode = s.errcode) : readReg t any .status = readReg s any .status := by
  have hmask : statusWord t &&& ~~~statusFreeMask = statusWord s &&& ~~~statusFreeMask := by
    refine BitVec.eq_of_getLsbD_eq fun i hi => ?_
    simp only [BitVec.getLsbD_and, BitVec.getLsbD_not, hi, decide_true, Bool.true_and,
      getLsbD_statusFreeMask, getLsbD_statusWord, hs, ht, hdone, herr, hovr, hcode]
    grind
  simp only [readReg, hs, ht, hmask, if_true]

/-- Settles O50: register by register, the value read while BUSY = 1 is a constant, ANY, or made of
fields that the two states share. -/
theorem readsWhileBusyShowNothingOfTheJob : Obligations.ReadsWhileBusyShowNothingOfTheJob := by
  intro s st key rk sv msg epoch outlen kwmask off hb
  refine ⟨_, rfl, ?_⟩
  have hread (any : Word) (r : Reg) : readReg { s with
      state := st, key := key, rk := rk, sv := sv, msg := msg, epoch := epoch,
      outlen := outlen, kwmask := kwmask } any r = readReg s any r := by
    cases r with
    | id | param | cmd | len | inten | key | unassigned => rfl
    | status => exact readReg_status_congr any hb hb rfl rfl rfl rfl
    | outlen | state | rk | msg => simp only [readReg, unlessBusy, hb, if_true]
  simp only [exec, execRd, hread]
  rfl

/-- The command's inputs and its job are unchanged (R83, R96). -/
def sameJob (s t : State) : Prop :=
  sameKey s t ∧ sameSchedule s t ∧ t.state = s.state ∧ sameMsg s t ∧ t.len = s.len ∧
    t.outlen = s.outlen ∧ t.cmdl = s.cmdl ∧ t.phase = s.phase ∧ t.pending = s.pending ∧
    t.nblk = s.nblk ∧ t.busy = s.busy

theorem sameJob.refl (s : State) : sameJob s s :=
  ⟨⟨rfl, rfl⟩, ⟨rfl, rfl⟩, rfl, fun _ => rfl, rfl, rfl, rfl, rfl, rfl, rfl, rfl⟩

/-- Of the registers not protected only STATUS and INTEN take a write, and no job reads them. -/
theorem writeRegIdle_sameJob {r : Reg} (hp : r.isProtected = false) (d : Word) (s : State) :
    sameJob s (writeRegIdle r d s) := by
  cases r with
  | id | param | outlen | rk | unassigned | status | inten => exact sameJob.refl s
  | cmd | key | state | len | msg => cases hp

theorem exec_wr_sameJob {off : Offset} {d : Word} {be : BitVec 4} {s t : State}
    (hb : s.busy = true) (h : exec (.wr off d be) s = .next t) : sameJob s t := by
  rcases execWr_cases h with ⟨-, rfl⟩ | ⟨-, -, -, rfl⟩ | ⟨-, hr, rfl⟩
  · exact sameJob.refl s
  · exact sameJob.refl s
  · exact writeRegIdle_sameJob (by simpa [hb] using hr) d s

/-- Settles O56: a line that is no reset is a write, or reads and changes the host's side alone. -/
theorem runningJobIsImmutable : Obligations.RunningJobIsImmutable := by
  intro s t l hb hl h
  rw [← hb]
  rcases hostStep_cases h with ⟨hrst, -⟩ | ⟨off, d, be, -, hw⟩ | ⟨r, ls, f, rfl⟩
  · exact absurd hrst hl
  · exact exec_wr_sameJob hb hw
  · exact sameJob.refl s

/-! ### Whose step comes next -/

theorem step_of_host {s : State} {l : HostLine} {ls : List HostLine} (hops : s.hostOps = l :: ls)
    (hturn : s.busy = false ∨ agentChosen s = .host) :
    step s = hostStep l { takeTurn s with hostOps := ls } := by
  unfold step stepAgents
  rw [hops]
  cases hb : s.busy with
  | false => rfl
  | true =>
    have hc : agentChosen s = .host := by simpa [hb] using hturn
    simp only [hc]

theorem step_of_core {s : State} (hb : s.busy = true)
    (hturn : s.hostOps = [] ∨ agentChosen s = .core) : step s = coreStep (takeTurn s) := by
  unfold step stepAgents
  rw [hb]
  cases hops : s.hostOps with
  | nil => rfl
  | cons l ls =>
    have hc : agentChosen s = .core := by simpa [hops] using hturn
    simp only [hc]

/-- Settles O7: `step_of_host`, and the lines `rd` and `wr` are the bus operations. -/
theorem stepPerformsTheHostLine : Obligations.StepPerformsTheHostLine := by
  intro s l ls hops hturn
  have hstep := step_of_host hops hturn
  refine ⟨hstep, fun off hl => ?_, fun off d be hl => ?_⟩
  · subst hl
    exact hstep
  · subst hl
    exact hstep

/-- Settles O8: the first of the turns to come is the head of the list. -/
theorem eitherAgentMayStepNext : Obligations.EitherAgentMayStepNext := by
  intro s l ls ts hb hops
  have hcore := step_of_core (s := { s with turns := .core :: ts }) hb (.inr rfl)
  have hhost := step_of_host (s := { s with turns := .host :: ts }) hops (.inr rfl)
  exact ⟨hcore, hhost⟩

/-! ### What a read of STATUS goes on to show -/

/-- Acceptance or completion, and an overrun, that STATUS shows before are still shown (R84, R247). -/
def staysVisible (s t : State) : Prop :=
  (s.busy = true ∨ s.done = true → t.busy = true ∨ t.done = true) ∧ (s.ovr = true → t.ovr = true)

theorem CommandWrites.ovr_eq {s u : State} (h : CommandWrites s u) : u.ovr = s.ovr := by
  cases h <;> simp

/-- No core step clears OVR (R32). -/
theorem coreStep_ovr {s t : State} (h : coreStep s = .next t) : t.ovr = s.ovr := by
  rcases coreStep_cases h with ⟨-, i, hd, hi⟩ | ⟨-, -, rfl⟩ | ⟨-, -, hblk⟩ | ⟨-, hf⟩
  · obtain ⟨hrd, hwr⟩ := decode_ok_command hd
    obtain ⟨e, u, hu, rfl⟩ | ⟨-, -, rfl⟩ := exec_command_cases hrd hwr hi
    · exact hu.ovr_eq
    · simp
  · simp
  · obtain ⟨-, rfl⟩ := decryptBlock_cases hblk
    simp
  · obtain ⟨-, ⟨n, -, rfl⟩ | rfl⟩ := ecbFinishStep_cases hf <;> simp

theorem coreStep_staysVisible {s t : State} (hb : s.busy = true) (h : coreStep s = .next t) :
    staysVisible s t := by
  refine ⟨fun _ => ?_, fun ho => (coreStep_ovr h).trans ho⟩
  cases ht : t.busy with
  | true => exact .inl rfl
  | false => exact .inr (coreStep_done hb h ht).1

/-- Acceptance clears DONE as it sets BUSY (R95); of the other registers only STATUS clears a flag. -/
theorem writeRegIdle_staysVisible {r : Reg} (hr : r ≠ .status) (d : Word) (s : State) :
    staysVisible s (writeRegIdle r d s) := by
  cases r with
  | status => exact absurd rfl hr
  | cmd => exact ⟨fun _ => .inl rfl, id⟩
  | id | param | len | outlen | inten | key | state | rk | msg | unassigned => exact ⟨id, id⟩

theorem exec_wr_staysVisible {off : Offset} {d : Word} {be : BitVec 4} {s t : State}
    (hoff : off ≠ 0x00C) (h : exec (.wr off d be) s = .next t) : staysVisible s t := by
  rcases execWr_cases h with ⟨-, rfl⟩ | ⟨-, -, -, rfl⟩ | ⟨-, -, rfl⟩
  · exact ⟨id, id⟩
  · exact ⟨id, fun _ => rfl⟩
  · exact writeRegIdle_staysVisible (fun hr => hoff (offset_of_regAt_status hr)) d s

/-- Settles O59: by who steps; the core ends BUSY only with DONE, a host line that is no reset and no
write to STATUS clears nothing without setting BUSY. -/
theorem completionAndOverrunStayVisible : Obligations.CompletionAndOverrunStayVisible := by
  intro s t hline h
  obtain ⟨-, -, rfl⟩ | ⟨hb, -, hc⟩ | ⟨l, ls, hops, hturn, hh⟩ := step_cases h
  · exact ⟨id, id⟩
  · exact coreStep_staysVisible (s := takeTurn s) hb hc
  · obtain ⟨hrst, hstatus⟩ := hline hturn
    rcases hostStep_cases hh with ⟨rfl, -⟩ | ⟨off, d, be, rfl, hw⟩ | ⟨r, ls', f, rfl⟩
    · exact absurd hops (hrst ls)
    · have hoff : off ≠ 0x00C := fun e => hstatus d be ls (e ▸ hops)
      exact exec_wr_staysVisible (s := { takeTurn s with hostOps := ls }) hoff hw
    · exact ⟨id, id⟩

end Sys2Proof.Machine
end

section
/-! SUPPORT. The family of 30_encoding.md: the command words and the table of R92, how many core steps a
command takes, and the lines `wait` and `expect` of the host. -/

namespace Sys2Proof

/-! ### Decode and encode -/

theorem withoutOperand_eq_ok {opa : Nat} {i j : Instr} :
    withoutOperand opa i = .ok j ↔ opa = 0 ∧ i = j := by
  unfold withoutOperand
  split <;> simp [*]

theorem decode_eq_ok {w : Word} {i : Instr} :
    decode w = .ok i ↔ rsvField w = 0 ∧ decodeFields (opField w) (opaField w) = .ok i := by
  by_cases h : rsvField w = 0
  · simp [decode_of_rsvField_zero h, h]
  · rw [decode, if_pos h]
    exact ⟨nofun, fun hd => absurd hd.1 h⟩

/-- The word that R103 puts together decodes by its own pattern and operand. -/
theorem decode_commandWord {p : Word} {b : Nat} (hb : b < 256) (hp : p.toNat < 256) :
    decode (commandWord p b) = decodeFields p.toNat b := by
  obtain ⟨hop, hopa, hrsv⟩ := fields_commandWord hb hp
  rw [decode_of_rsvField_zero hrsv, hop, hopa]

/-- The rows of R93 read backwards: the fields that give a command are those of its word. -/
theorem encode_of_decodeFields {op opa : Nat} {i : Instr} (hopa : opa < 256)
    (h : decodeFields op opa = .ok i) :
    i.wellFormed = true ∧ encode i = some (commandWord (BitVec.ofNat 32 op) opa) := by
  unfold decodeFields at h
  split at h
  case h_5 | h_6 | h_10 => cases h; exact ⟨decide_eq_true hopa, rfl⟩
  case h_13 => cases h
  all_goals
    obtain ⟨rfl, rfl⟩ := withoutOperand_eq_ok.1 h
    exact ⟨rfl, rfl⟩

/-- Settles O1, by the instruction's constructor: its word has RSV = 0, its opcode and its operand. -/
theorem decodeOfEncodeIsTheInstruction : Obligations.DecodeOfEncodeIsTheInstruction := by
  intro i hi
  cases i with
  | rd off => exact .inl ⟨off, rfl⟩
  | wr off d be => exact .inr ⟨off, d, be, rfl⟩
  | loadState b | storeState b | addRoundKey b =>
    exact decode_commandWord (of_decide_eq_true hi) (by decide)
  | nop | keyExpand | keyClear | schedClear | invShiftRows | invSubBytes | invMixColumns
  | decryptState | ecbDecrypt => exact decode_commandWord (by decide) (by decide)

/-- Settles O2: RSV = 0, so the word is put together from the fields that were decoded. -/
theorem encodeOfDecodeIsTheWord : Obligations.EncodeOfDecodeIsTheWord := by
  intro w i h
  obtain ⟨hrsv, hfields⟩ := decode_eq_ok.1 h
  obtain ⟨hwf, henc⟩ := encode_of_decodeFields (opaField_lt w) hfields
  exact ⟨hwf, henc.trans (congrArg some (eq_commandWord_of_rsvField_zero hrsv).symm)⟩

/-! ### The match and mask table (R92) -/

/-- A word is its three fields (R90). -/
theorem eq_of_fields {v w : Word} (hop : opField v = opField w) (hopa : opaField v = opaField w)
    (hrsv : rsvField v = rsvField w) : v = w := by
  have hrsv := congrArg BitVec.toNat hrsv
  simp only [opField, opaField, rsvField, BitVec.extractLsb'_toNat,
    Nat.shiftRight_eq_div_pow] at hop hopa hrsv
  apply BitVec.eq_of_toNat_eq
  omega

theorem TableRow.matches_iff_fields {w : Word} {r : TableRow} : r.matches w = true ↔
    opField w &&& opField r.mask = opField r.pattern ∧
    opaField w &&& opaField r.mask = opaField r.pattern ∧
    rsvField w &&& rsvField r.mask = rsvField r.pattern := by
  refine ⟨fields_of_matches, fun ⟨hop, hopa, hrsv⟩ => ?_⟩
  have hw : w &&& r.mask = r.pattern := by
    apply eq_of_fields <;> simp_all [opField, opaField, rsvField, BitVec.extractLsb'_and]
  simp [TableRow.matches, hw]

/-- What every row of R92 has: masks of whole fields OP and RSV, and a pattern with OPA and RSV zero. -/
theorem opcodeTable_fields : ∀ r ∈ opcodeTable, opField r.mask = 2 ^ 8 - 1 ∧
    opaField r.pattern = 0 ∧ rsvField r.mask = BitVec.allOnes 16 ∧ rsvField r.pattern = 0 := by
  decide

/-- A row of R92 matches a word by its opcode, with RSV = 0 and no masked bit of OPA set. -/
theorem TableRow.matches_iff_of_mem {w : Word} {r : TableRow} (hr : r ∈ opcodeTable) :
    r.matches w = true ↔ rsvField w = 0 ∧ opField w = opField r.pattern ∧
      opaField w &&& opaField r.mask = 0 := by
  obtain ⟨hop, hopa, hmask, hrsv⟩ := opcodeTable_fields r hr
  rw [matches_iff_fields, hop, hopa, hmask, hrsv, Nat.and_two_pow_sub_one_eq_mod,
    Nat.mod_eq_of_lt (opField_lt w), BitVec.and_allOnes]
  tauto

/-- The rows of R92 differ in their opcodes. -/
theorem eq_of_opcode_eq : ∀ r ∈ opcodeTable, ∀ q ∈ opcodeTable,
    opField r.pattern = opField q.pattern → r = q := by
  decide

/-- A case of R93 that gives a command has its row in R92: with OPA free, or with OPA zero. -/
theorem row_of_decodeFields {op opa : Nat} {i : Instr} (h : decodeFields op opa = .ok i) :
    ⟨BitVec.ofNat 32 op, 0xFFFF00FF⟩ ∈ opcodeTable ∨
      ⟨BitVec.ofNat 32 op, 0xFFFFFFFF⟩ ∈ opcodeTable ∧ opa = 0 := by
  unfold decodeFields at h
  split at h
  case h_5 | h_6 | h_10 => exact .inl (by decide)
  case h_13 => cases h
  all_goals exact .inr ⟨by decide, (withoutOperand_eq_ok.1 h).1⟩

/-- The rows of R92 with an operand, and that the others decode with OPA = 0. -/
theorem opcodeTable_operand : ∀ r ∈ opcodeTable,
    (opField r.pattern = 0x10 ∨ opField r.pattern = 0x11 ∨ opField r.pattern = 0x15) ∨
      opaField r.mask = 2 ^ 8 - 1 ∧ (decodeFields (opField r.pattern) 0).isOk = true := by
  decide

/-- The cases of R93 that give a command are the rows of R92. -/
theorem decodeFields_ok_iff {op opa : Nat} (hop : op < 256) (hopa : opa < 256) :
    (∃ i, decodeFields op opa = .ok i) ↔
      ∃ r ∈ opcodeTable, op = opField r.pattern ∧ opa &&& opaField r.mask = 0 := by
  constructor
  · rintro ⟨i, h⟩
    have hpat : op = opField (BitVec.ofNat 32 op) := by
      simp only [opField, BitVec.extractLsb'_toNat, BitVec.toNat_ofNat]
      omega
    obtain hr | ⟨hr, rfl⟩ := row_of_decodeFields h
    · have hfree : opaField 0xFFFF00FF = 0 := by decide
      exact ⟨_, hr, hpat, by simp only [hfree, Nat.and_zero]⟩
    · exact ⟨_, hr, hpat, Nat.zero_and _⟩
  · rintro ⟨r, hr, rfl, hm⟩
    obtain (hp | hp | hp) | ⟨hmask, hok⟩ := opcodeTable_operand r hr
    · exact ⟨.loadState opa, by rw [hp]; rfl⟩
    · exact ⟨.storeState opa, by rw [hp]; rfl⟩
    · exact ⟨.addRoundKey opa, by rw [hp]; rfl⟩
    · rw [hmask, Nat.and_two_pow_sub_one_eq_mod, Nat.mod_eq_of_lt hopa] at hm
      subst hm
      cases hd : decodeFields (opField r.pattern) 0 with
      | ok i => exact ⟨i, rfl⟩
      | error e => rw [hd] at hok; cases hok

/-- Settles O3: the rows of R92 are the cases of R93, and their opcodes tell them apart. -/
theorem decodeAcceptsExactlyTheTableRows : Obligations.DecodeAcceptsExactlyTheTableRows := by
  intro w
  have hfields := decodeFields_ok_iff (opField_lt w) (opaField_lt w)
  refine ⟨⟨?_, ?_⟩, fun r hr q hq hrw hqw => ?_⟩
  · rintro ⟨i, h⟩
    obtain ⟨hrsv, hi⟩ := decode_eq_ok.1 h
    obtain ⟨r, hr, hm⟩ := hfields.1 ⟨i, hi⟩
    exact ⟨r, hr, (TableRow.matches_iff_of_mem hr).2 ⟨hrsv, hm⟩⟩
  · rintro ⟨r, hr, h⟩
    obtain ⟨hrsv, hm⟩ := (TableRow.matches_iff_of_mem hr).1 h
    obtain ⟨i, hi⟩ := hfields.2 ⟨r, hr, hm⟩
    exact ⟨i, decode_eq_ok.2 ⟨hrsv, hi⟩⟩
  · obtain ⟨-, hop, -⟩ := (TableRow.matches_iff_of_mem hr).1 hrw
    obtain ⟨-, hop', -⟩ := (TableRow.matches_iff_of_mem hq).1 hqw
    exact eq_of_opcode_eq r hr q hq (hop.symm.trans hop')

/-- Settles O4, word by word: for each refused one its reason. -/
theorem writtenOutWordsDecode : Obligations.WrittenOutWordsDecode := by
  refine ⟨?_, ?_, ?_, ?_, ?_, ?_, ?_⟩ <;> decide

end Sys2Proof

namespace Sys2Proof.Machine

/-! ### The core's step performs the latched command -/

/-- Settles O5: `step_of_core`, and a taken turn changes neither PHASE nor CMDL. -/
theorem stepPerformsTheLatchedCommand : Obligations.StepPerformsTheLatchedCommand := by
  intro s hb hturn
  have hstep := step_of_core hb hturn
  refine ⟨hstep, ?_, fun i hp hd => hstep.trans (coreStep_exec (takeTurn s) hp hd)⟩
  unfold takeTurn
  cases s.turns <;> rfl

/-- A word that no row of R92 matches decodes to an error (R93, R94). -/
theorem decode_error_of_no_row {w : Word} (h : ∀ r ∈ opcodeTable, r.matches w = false) :
    ∃ e, decode w = .error e := by
  cases hd : decode w with
  | error e => exact ⟨e, rfl⟩
  | ok i =>
    obtain ⟨r, hr, hm⟩ := (decodeAcceptsExactlyTheTableRows w).1.1 ⟨i, hd⟩
    exact absurd hm (by simp [h r hr])

/-- Settles O6: the core raises IllegalCommand on a word that does not decode. -/
theorem illegalWordRaisesIllegalCommand : Obligations.IllegalWordRaisesIllegalCommand := by
  intro s hb hp hrow hturn
  obtain ⟨e, he⟩ := decode_error_of_no_row hrow
  exact (step_of_core hb hturn).trans (coreStep_illegal (takeTurn s) hp he)

/-! ### No stop, and how many core steps a command takes (R97, R289) -/

/-- While a command runs the core has a step: the three faults of the model are not reached. -/
theorem coreStep_answers {s : State} (h : Invariant s) (hb : s.busy = true) :
    ∃ t, coreStep s = .next t := by
  cases hp : s.phase with
  | idle => exact absurd (h.idlePhase.1 hp) (by simp [hb])
  | exec =>
    cases hd : decode s.cmdl with
    | ok i =>
      rw [coreStep_exec s hp hd]
      exact exec_answers i s
    | error e => exact ⟨_, coreStep_illegal s hp hd⟩
  | ecbBlocks =>
    have hne := h.pendingPhase.1 hp
    have hin := (h.pendingInside _ (pickBlock_mem (Config.blockChoice s.draws) hne)).trans_le
      h.nblkInside
    rw [coreStep_ecbBlocks s hp, ecbBlockStep_of_pending s hne]
    exact ⟨_, decryptBlock_next (countDraw s) hin⟩
  | ecbFinish =>
    obtain ⟨hpos, hlen, -⟩ := h.ecbJob (.inr hp)
    have hle : s.len.toNat ≤ s.params.msgBytes := by
      have := h.nblkInside
      rw [Params.msgBytes]
      omega
    rw [coreStep_ecbFinish s hp]
    exact ⟨_, ecbFinishStep_next s (by omega) hle⟩

/-- Settles O54, by who steps: nobody, the host, or the core, which has a step while BUSY = 1. -/
theorem stepNeverStops : Obligations.StepNeverStops := by
  intro s h
  cases hb : s.busy with
  | false =>
    cases hops : s.hostOps with
    | nil => exact ⟨s, by unfold step stepAgents; rw [hb, hops]⟩
    | cons l ls =>
      rw [step_of_host hops (.inl hb)]
      exact hostStep_answers _ _
  | true =>
    have hcore := coreStep_answers (h.takeTurn s.hostOps) hb
    cases hops : s.hostOps with
    | nil => exact step_of_core hb (.inl hops) ▸ hcore
    | cons l ls =>
      cases hturn : agentChosen s with
      | core => exact step_of_core hb (.inr hturn) ▸ hcore
      | host =>
        rw [step_of_host hops (.inr hturn)]
        exact hostStep_answers _ _

/-- How many core steps a running command still takes at most: PHASE and what is pending say it. -/
def stepsLeft (s : State) : Nat :=
  match s.phase with
  | .idle => 0
  | .exec => s.len.toNat / 16 + 2
  | .ecbBlocks => s.pending.length + 1
  | .ecbFinish => 1

theorem stepsLeft_finish (e : Option CmdError) (s : State) : stepsLeft (finish e s) = 0 := rfl

theorem stepsLeft_pos {s : State} (hp : s.phase ≠ .idle) : 0 < stepsLeft s := by
  unfold stepsLeft
  split <;> simp_all

/-- A block step leaves one block fewer pending, or, after the last, the finish step. -/
theorem stepsLeft_blockDone_lt {s : State} (hp : s.phase = .ecbBlocks) {b : Nat}
    (hb : b ∈ s.pending) : stepsLeft (blockDone b s) < stepsLeft s := by
  have hlen := List.length_erase_of_mem hb
  have hpos := List.length_pos_of_mem hb
  have hs : stepsLeft s = s.pending.length + 1 := by rw [stepsLeft, hp]
  rw [hs, stepsLeft, blockDone_phase, blockDone_pending]
  cases (s.pending.erase b).isEmpty with
  | true =>
    show 1 < s.pending.length + 1
    omega
  | false =>
    show (s.pending.erase b).length + 1 < s.pending.length + 1
    omega

/-- A core step leaves fewer steps to come. -/
theorem stepsLeft_lt_of_coreStep {s t : State} (h : coreStep s = .next t) :
    stepsLeft t < stepsLeft s := by
  rcases coreStep_cases h with ⟨hp, i, hd, hi⟩ | ⟨hp, -, rfl⟩ | ⟨hp, hne, hblk⟩ | ⟨hp, hf⟩
  · obtain ⟨hrd, hwr⟩ := decode_ok_command hd
    obtain ⟨e, u, -, rfl⟩ | ⟨-, -, rfl⟩ := exec_command_cases hrd hwr hi
    · exact stepsLeft_finish e u ▸ stepsLeft_pos (by simp [hp])
    · simp [stepsLeft, hp]
  · exact stepsLeft_finish (some .illegalCommand) s ▸ stepsLeft_pos (by simp [hp])
  · obtain ⟨-, rfl⟩ := decryptBlock_cases hblk
    exact stepsLeft_blockDone_lt (s := countDraw s) hp (pickBlock_mem _ hne)
  · have hpos : 0 < stepsLeft s := stepsLeft_pos (by simp [hp])
    obtain ⟨-, ⟨n, -, rfl⟩ | rfl⟩ := ecbFinishStep_cases hf
    · exact hpos
    · exact hpos

/-- PENDING is a set of blocks of the job. -/
theorem Invariant.length_pending_le {s : State} (h : Invariant s) : s.pending.length ≤ s.nblk := by
  have hsub : s.pending ⊆ List.range s.nblk := fun b hb => List.mem_range.2 (h.pendingInside b hb)
  have hnodup : s.pending.Nodup := h.pendingRising.imp ne_of_lt
  simpa using (hnodup.subperm hsub).length_le

theorem Invariant.stepsLeft_le {s : State} (h : Invariant s) :
    stepsLeft s ≤ s.len.toNat / 16 + 2 := by
  unfold stepsLeft
  split
  · omega
  · exact le_rfl
  · obtain ⟨-, hlen, -⟩ := h.ecbJob (.inl ‹_›)
    have := h.length_pending_le
    omega
  · omega

/-- A running command completes within the steps left, whose bound `m` each core step lowers. -/
theorem completes_of_stepsLeft_le {s : State} (h : Invariant s) (hb : s.busy = true)
    {m : Nat} (hm : stepsLeft s ≤ m) :
    ∃ n t, n ≤ m ∧ coreRun n s = .next t ∧ t.busy = false ∧ t.done = true := by
  obtain ⟨u, hu⟩ := coreStep_answers h hb
  have hlt := stepsLeft_lt_of_coreStep hu
  induction m generalizing s u with
  | zero => omega
  | succ m ih =>
    cases hub : u.busy with
    | false => exact ⟨1, u, by omega, by rw [coreRun, hu]; rfl, hub, (coreStep_done hb hu hub).1⟩
    | true =>
      have hinv := h.coreStep hu
      obtain ⟨v, hv⟩ := coreStep_answers hinv hub
      obtain ⟨n, t, hn, hrun, hdone⟩ := ih hinv hub (by omega) v hv (stepsLeft_lt_of_coreStep hv)
      exact ⟨n + 1, t, by omega, by rw [coreRun, hu]; exact hrun, hdone⟩

/-- Settles O30: within the steps left, which are at most LEN/16 + 2. -/
theorem everyCommandCompletes : Obligations.EveryCommandCompletes :=
  fun _ h hb => completes_of_stepsLeft_le h hb h.stepsLeft_le

/-! ### CMD -/

/-- Settles O39: CMD takes the write, and its write rule is acceptance. -/
theorem commandWriteIsAccepted : Obligations.CommandWriteIsAccepted :=
  fun s d hb => exec_wr_taken s (by decide) d (.inl hb)

/-- Settles O40: CMD reads a constant, and is protected. -/
theorem commandWriteWhileBusyIsLost : Obligations.CommandWriteWhileBusyIsLost :=
  fun s d => ⟨exec_rd_aligned s (by decide), fun hb => exec_wr_dropped s (by decide) d hb rfl⟩

/-! ### The host lines `wait` and `expect` (R104) -/

/-- After an answered read of STATUS the line stands again exactly while bit 0 is 1. -/
theorem afterWait_readOk (v : Word) (s : State) : afterWait (respond (.readOk v) s) = { s with
    resp := .readOk v
    hostOps := if v.getLsbD 0 then .wait :: s.hostOps else s.hostOps } := by
  unfold afterWait
  simp only [respond_resp, readValue]
  split <;> rfl

/-- Settles O9: the line reads STATUS, and bit 0 of what it reads is BUSY. -/
theorem waitRepeatsWhileBusy : Obligations.WaitRepeatsWhileBusy := by
  intro s
  have hbit : (readReg s (Config.anyWord s.draws) .status).getLsbD 0 = s.busy :=
    (getLsbD_readReg_status s _ (.inr rfl)).trans (getLsbD_statusWord s 0)
  have hread : hostStep .wait s = .next (afterWait
      (respond (.readOk (readReg s (Config.anyWord s.draws) .status)) (countDraw s))) := rfl
  refine ⟨_, .readOk (readReg s (Config.anyWord s.draws) .status), hread, ?_⟩
  rw [afterWait_readOk, hbit]
  rfl

/-- A read at any offset (R77): an aligned one is answered OK, another with the value of a bus error. -/
theorem exec_rd_response (s : State) (off : Offset) : ∃ u v, exec (.rd off) s = .next u ∧
    ((off.toNat % 4 = 0 ∧ u.resp = .readOk v) ∨ (off.toNat % 4 ≠ 0 ∧ u.resp = .readErr v)) := by
  by_cases hmod : off.toNat % 4 = 0
  · obtain ⟨u, hu, rfl, -⟩ := exec_rd_aligned s hmod
    exact ⟨_, _, hu, .inl ⟨hmod, rfl⟩⟩
  · obtain ⟨v, hv⟩ := (busErrorsChangeNothing s off 0 0).1 hmod
    exact ⟨_, v, hv, .inr ⟨hmod, rfl⟩⟩

/-- Settles O60: whichever the response, its value is compared with the one expected. -/
theorem expectFailsOnAnotherValue : Obligations.ExpectFailsOnAnotherValue := by
  intro s off value
  obtain ⟨u, v, hu, hresp⟩ := exec_rd_response s off
  have hv : readValue u.resp = some v := by
    obtain ⟨-, hr⟩ | ⟨-, hr⟩ := hresp <;> rw [hr] <;> rfl
  have hline : hostStep (.expect off value) s = .next (afterExpect value u) := by
    rw [hostStep, hu]
    rfl
  refine ⟨u, v, hu, hresp, fun he => ?_, fun hne => ?_⟩
  · rw [hline, afterExpect, if_pos (he ▸ hv)]
  · rw [hline, afterExpect, if_neg (fun h => hne (Option.some.inj (hv.symm.trans h)))]

end Sys2Proof.Machine
end

section
/-! SUPPORT. The family of 40_key_schedule.md: the product of bytes in GF(2^8), the entries of the S-box, the
key expansion by its recurrence, and what the four commands of the family leave unchanged. -/

namespace Sys2Proof.Machine

/-! ### The product in GF(2^8): the loop of R121 is linear in each of its two arguments -/

/-- Adding `a` where a bit of two summed bytes is 1 adds it once for each of the two bits. -/
theorem xor_if_bit_xor (c d : Bool) (p q a : Byte) :
    (if (c ^^ d) = true then (p ^^^ q) ^^^ a else p ^^^ q) =
      (if c = true then p ^^^ a else p) ^^^ (if d = true then q ^^^ a else q) := by
  cases c <;> cases d
  · rfl
  · exact BitVec.xor_assoc p q a
  · change (p ^^^ q) ^^^ a = (p ^^^ a) ^^^ q
    ac_rfl
  · calc p ^^^ q = (p ^^^ q) ^^^ (a ^^^ a) := by rw [BitVec.xor_self, BitVec.xor_zero]
      _ = (p ^^^ a) ^^^ (q ^^^ a) := by ac_rfl

theorem xtime_xor (a b : Byte) : xtime (a ^^^ b) = xtime a ^^^ xtime b := by
  unfold xtime
  rw [BitVec.getLsbD_xor, BitVec.shiftLeft_xor_distrib, xor_if_bit_xor]

theorem gmulFrom_xor_left (n : Nat) : ∀ (k : Nat) (a a' b p p' : Byte),
    gmulFrom n k (a ^^^ a') b (p ^^^ p') = gmulFrom n k a b p ^^^ gmulFrom n k a' b p' := by
  induction n with
  | zero => intros; rfl
  | succ n ih =>
    intro k a a' b p p'
    rw [gmulFrom, gmulFrom, gmulFrom, ← ih, xtime_xor]
    congr 1
    split
    · ac_rfl
    · rfl

theorem gmulFrom_xor_right (n : Nat) : ∀ (k : Nat) (a b b' p p' : Byte),
    gmulFrom n k a (b ^^^ b') (p ^^^ p') = gmulFrom n k a b p ^^^ gmulFrom n k a b' p' := by
  induction n with
  | zero => intros; rfl
  | succ n ih =>
    intro k a b b' p p'
    rw [gmulFrom, gmulFrom, gmulFrom, ← ih, BitVec.getLsbD_xor, xor_if_bit_xor]

theorem gmulFrom_xtime_left (n : Nat) : ∀ (k : Nat) (a b p : Byte),
    gmulFrom n k (xtime a) b (xtime p) = xtime (gmulFrom n k a b p) := by
  induction n with
  | zero => intros; rfl
  | succ n ih =>
    intro k a b p
    rw [gmulFrom, gmulFrom, ← ih]
    congr 1
    split
    · rw [xtime_xor]
    · rfl

/-- A loop that meets no set bit adds nothing. -/
theorem gmulFrom_of_bits_clear {b : Byte} (n : Nat) : ∀ (k : Nat) (a p : Byte),
    (∀ j, k ≤ j → b.getLsbD j = false) → gmulFrom n k a b p = p := by
  induction n with
  | zero => intros; rfl
  | succ n ih =>
    intro k a p hb
    rw [gmulFrom, hb k le_rfl]
    exact ih (k + 1) (xtime a) p fun j hj => hb j (by omega)

/-- What holds of the byte added first and of `a`, and is kept by XOR and `xtime`, holds of the product. -/
theorem gmulFrom_induction {P : Byte → Prop} (hxor : ∀ a b, P a → P b → P (a ^^^ b))
    (hxtime : ∀ a, P a → P (xtime a)) (n : Nat) : ∀ (k : Nat) (a b p : Byte),
    P a → P p → P (gmulFrom n k a b p) := by
  induction n with
  | zero => exact fun _ _ _ _ _ hp => hp
  | succ n ih =>
    intro k a b p ha hp
    refine ih (k + 1) (xtime a) b _ (hxtime a ha) ?_
    split
    · exact hxor p a hp ha
    · exact hp

theorem gmul_xor_left (a a' b : Byte) : gmul (a ^^^ a') b = gmul a b ^^^ gmul a' b :=
  gmulFrom_xor_left 8 0 a a' b 0 0

theorem gmul_xor_right (a b b' : Byte) : gmul a (b ^^^ b') = gmul a b ^^^ gmul a b' :=
  gmulFrom_xor_right 8 0 a b b' 0 0

theorem gmul_xtime_left (a b : Byte) : gmul (xtime a) b = xtime (gmul a b) :=
  gmulFrom_xtime_left 8 0 a b 0

@[simp] theorem gmul_zero (a : Byte) : gmul a 0 = 0 :=
  gmulFrom_of_bits_clear 8 0 a 0 fun _ _ => BitVec.getLsbD_zero

@[simp] theorem zero_gmul (b : Byte) : gmul 0 b = 0 := by
  simpa using gmul_xor_left 0 0 b

@[simp] theorem gmul_one (a : Byte) : gmul a 1 = a := by
  have hclear : ∀ j, 1 ≤ j → (1#8).getLsbD j = false := fun j hj => by
    simp [BitVec.getLsbD_one, show j ≠ 0 by omega]
  calc gmul a 1 = gmulFrom 7 1 (xtime a) 1 (0 ^^^ a) := rfl
    _ = 0 ^^^ a := gmulFrom_of_bits_clear 7 1 (xtime a) (0 ^^^ a) hclear
    _ = a := BitVec.zero_xor

/-- The powers of x below 8 are the single bits of a byte, so the loop of R121 puts `b` together from its bits. -/
@[simp] theorem one_gmul : ∀ b : Byte, gmul 1 b = b := by
  decide

/-- Every byte is made from 0 and 1 by XOR and `xtime`. -/
theorem byte_induction {P : Byte → Prop} (h0 : P 0) (h1 : P 1)
    (hxor : ∀ a b, P a → P b → P (a ^^^ b)) (hxtime : ∀ a, P a → P (xtime a)) (b : Byte) : P b :=
  one_gmul b ▸ gmulFrom_induction hxor hxtime 8 0 1 b 0 h1 h0

theorem gmul_xtime_right (a b : Byte) : gmul a (xtime b) = xtime (gmul a b) := by
  induction a using byte_induction with
  | h0 => rw [zero_gmul, zero_gmul]; rfl
  | h1 => rw [one_gmul, one_gmul]
  | hxor a a' ha ha' => rw [gmul_xor_left, gmul_xor_left, xtime_xor, ha, ha']
  | hxtime a ha => rw [gmul_xtime_left, gmul_xtime_left, ha]

theorem gmul_comm (a b : Byte) : gmul a b = gmul b a := by
  induction b using byte_induction with
  | h0 => rw [gmul_zero, zero_gmul]
  | h1 => rw [gmul_one, one_gmul]
  | hxor b b' hb hb' => rw [gmul_xor_right, gmul_xor_left, hb, hb']
  | hxtime b hb => rw [gmul_xtime_right, gmul_xtime_left, hb]

theorem gmul_assoc (a b c : Byte) : gmul (gmul a b) c = gmul a (gmul b c) := by
  induction c using byte_induction with
  | h0 => simp only [gmul_zero]
  | h1 => simp only [gmul_one]
  | hxor c c' hc hc' => simp only [gmul_xor_right, hc, hc']
  | hxtime c hc => simp only [gmul_xtime_right, hc]

/-- Settles O34: linearity in both arguments, and the bytes made from 0 and 1 (`byte_induction`). -/
theorem fieldProductLaws : Obligations.FieldProductLaws :=
  fun a b c => ⟨gmul_zero a, gmul_one a, gmul_comm a b, gmul_assoc a b c, gmul_xor_right a b c⟩

/-! ### The S-box (R123) -/

/-- The affine map of R123. -/
def sboxAffine (b : Byte) : Byte :=
  b ^^^ b.rotateLeft 1 ^^^ b.rotateLeft 2 ^^^ b.rotateLeft 3 ^^^ b.rotateLeft 4 ^^^ 0x63

/-- The inverse of the affine map of R123. -/
def sboxAffineInv (y : Byte) : Byte :=
  y.rotateLeft 1 ^^^ y.rotateLeft 3 ^^^ y.rotateLeft 6 ^^^ 0x05

theorem sboxAffine_sboxAffineInv : ∀ y : Byte, sboxAffine (sboxAffineInv y) = y := by
  decide

/-- The table of R122, entry by entry: with the affine map undone, it holds the inverse of each byte. -/
theorem gmul_sboxAffineInv_sbox : ∀ x : Byte, x ≠ 0 → gmul x (sboxAffineInv (sbox x)) = 1 := by
  decide

theorem eq_of_gmul_eq_one {x b c : Byte} (hb : gmul x b = 1) (hc : gmul x c = 1) : b = c := by
  calc b = gmul (gmul x c) b := by rw [hc, one_gmul]
    _ = gmul (gmul x b) c := by rw [gmul_assoc, gmul_comm c b, gmul_assoc]
    _ = c := by rw [hb, one_gmul]

/-- Settles O31: an inverse is unique, so it is the one that the table holds. -/
theorem sboxIsTheAffineImageOfTheInverse : Obligations.SboxIsTheAffineImageOfTheInverse := by
  refine ⟨fun x hx => ⟨_, gmul_sboxAffineInv_sbox x hx⟩, fun x b h => ?_⟩
  suffices hb : b = sboxAffineInv (sbox x) by
    exact (sboxAffine_sboxAffineInv (sbox x)).symm.trans (congrArg sboxAffine hb.symm)
  obtain hinv | ⟨rfl, rfl⟩ := h
  · refine eq_of_gmul_eq_one hinv (gmul_sboxAffineInv_sbox x fun hx => ?_)
    rw [hx, zero_gmul] at hinv
    exact absurd hinv (by decide)
  · decide

/-! ### The round constants and the key expansion -/

theorem rcon_succ {r : Nat} (h1 : 1 ≤ r) (h9 : r ≤ 9) : rcon (r + 1) = xtime (rcon r) := by
  interval_cases r <;> decide

/-- Settles O32: each part by its definition, the rule of RCON by `rcon_succ`. -/
theorem rconRotWordSubWord : Obligations.RconRotWordSubWord :=
  ⟨⟨rfl, rfl, rfl, rfl, rfl, rfl, rfl, rfl, rfl, rfl⟩, fun _ h1 h9 => rcon_succ h1 h9,
    fun _ _ _ _ => ⟨rfl, rfl⟩⟩

/-- The loop of R127: each word it adds is made from the words one and four places before it. -/
theorem getD_expandFrom (n : Nat) : ∀ (i j : Nat) (a b c d : Col) (ws : List Col), j < n →
    ws = a :: b :: c :: d :: expandFrom n i a b c d →
    ws.getD (j + 4) Col.zero =
      Col.xor (ws.getD j Col.zero) (scheduleTemp (i + j) (ws.getD (j + 3) Col.zero)) := by
  induction n with
  | zero => exact fun _ j _ _ _ _ _ hj => absurd hj (Nat.not_lt_zero j)
  | succ n ih =>
    rintro i j a b c d _ hj rfl
    cases j with
    | zero => rfl
    | succ j =>
      have h := ih (i + 1) j b c d (Col.xor a (scheduleTemp i d)) _ (by omega) rfl
      rwa [show i + 1 + j = i + (j + 1) by omega] at h

/-- The first four words are the key (R127). -/
theorem schedWord_keyExpansion_of_lt_four (k : Block) {j : Nat} (hj : j < 4) :
    schedWord (keyExpansion k) j = k.col j := by
  interval_cases j <;> rfl

/-- The recurrence of R127. -/
theorem schedWord_keyExpansion_of_four_le (k : Block) {i : Nat} (h4 : 4 ≤ i) (h44 : i < 44) :
    schedWord (keyExpansion k) i = Col.xor (schedWord (keyExpansion k) (i - 4))
      (scheduleTemp i (schedWord (keyExpansion k) (i - 1))) := by
  obtain ⟨j, rfl⟩ := Nat.exists_eq_add_of_le' h4
  rw [Nat.add_comm j 4, Nat.add_sub_cancel_left, show 4 + j - 1 = j + 3 by omega]
  have h := getD_expandFrom 40 4 j k.c0 k.c1 k.c2 k.c3 (expandedWords k) (by omega) rfl
  rwa [Nat.add_comm j 4] at h

theorem scheduleTemp_of_mod_ne_zero {i : Nat} (h : i % 4 ≠ 0) (w : Col) : scheduleTemp i w = w :=
  if_neg h

theorem scheduleTemp_of_mod_eq_zero {i : Nat} (h : i % 4 = 0) (w : Col) : scheduleTemp i w =
    ⟨sbox w.b1 ^^^ rcon (i / 4), sbox w.b2, sbox w.b3, sbox w.b0⟩ := by
  rw [scheduleTemp, if_pos h]
  simp [Col.xor, subWord, rotWord]

/-! ### The commands -/

/-- A command that raises an error on the state as it found it (R13, R98). -/
theorem raisesOnly_raise (e : CmdError) (s : State) : raisesOnly e.code s (raise e s) :=
  ⟨⟨rfl, rfl, rfl, rfl, rfl⟩, ⟨rfl, rfl⟩, ⟨rfl, rfl⟩, rfl, fun _ => rfl,
    rfl, rfl, rfl, rfl, rfl, rfl, rfl, rfl, rfl, rfl, rfl, rfl, rfl⟩

/-- A command that writes at most KEY, KWMASK, RKB and SV and completes: what it leaves unchanged. -/
theorem finish_none_frame (s : State) (k : Block) (m : BitVec 4) (w : Schedule) (v : Bool) :
    let t := finish none { s with key := k, kwmask := m, rk := w, sv := v }
    completesOk s t ∧ t.state = s.state ∧ sameMsg s t ∧ t.outlen = s.outlen ∧ sameRest s t :=
  ⟨⟨rfl, rfl, rfl, rfl, rfl⟩, rfl, fun _ => rfl, rfl,
    rfl, rfl, rfl, rfl, rfl, rfl, rfl, rfl, rfl, rfl, rfl, rfl, rfl⟩

/-- Settles O12: NOP writes none of the key and the schedule. -/
theorem nopOnlyCompletes : Obligations.NopOnlyCompletes := by
  refine ⟨rfl, fun s => ⟨_, exec_nop s, ?_⟩⟩
  obtain ⟨hok, hstate, hmsg, houtlen, hrest⟩ := finish_none_frame s s.key s.kwmask s.rk s.sv
  exact ⟨hok, ⟨rfl, rfl⟩, ⟨rfl, rfl⟩, hstate, hmsg, houtlen, hrest⟩

/-- Settles O14: KEY_CLEAR writes KEY and KWMASK. -/
theorem keyClearDiscardsTheKey : Obligations.KeyClearDiscardsTheKey := by
  refine ⟨rfl, fun s => ⟨_, exec_keyClear s, rfl, rfl, ?_⟩⟩
  obtain ⟨hok, hframe⟩ := finish_none_frame s Block.zero 0 s.rk s.sv
  exact ⟨hok, ⟨rfl, rfl⟩, hframe⟩

/-- ADD_ROUND_KEY with a legal round and no schedule (R175). -/
theorem exec_addRoundKey_of_no_schedule {s : State} {r : Nat} (hr : r ≤ 10) (hv : s.sv = false) :
    exec (.addRoundKey r) s = .next (raise .noSchedule s) := by
  rw [exec_addRoundKey, if_neg (by omega), if_pos hv]

/-- DECRYPT_STATE with no schedule (R176). -/
theorem exec_decryptState_of_no_schedule {s : State} (hv : s.sv = false) :
    exec .decryptState s = .next (raise .noSchedule s) := by
  rw [exec_decryptState, if_pos hv]

/-- Settles O15: SCHED_CLEAR writes RKB and SV, and SV = 0 makes the two commands raise. -/
theorem schedClearDiscardsTheSchedule : Obligations.SchedClearDiscardsTheSchedule := by
  refine ⟨rfl, fun s => ⟨_, exec_schedClear s, fun k _ => rkByte_zero k, rfl, ?_⟩⟩
  obtain ⟨hok, hstate, hmsg, houtlen, hrest⟩ :=
    finish_none_frame s s.key s.kwmask Schedule.zero false
  refine ⟨hok, ⟨rfl, rfl⟩, hstate, hmsg, houtlen, hrest, fun r hr => ?_, ?_⟩
  · exact ⟨_, exec_addRoundKey_of_no_schedule hr rfl, raisesOnly_raise .noSchedule _, rfl⟩
  · exact ⟨_, exec_decryptState_of_no_schedule rfl, raisesOnly_raise .noSchedule _, rfl⟩

/-- KEY_EXPAND with all four key words written (R131). -/
theorem exec_keyExpand_of_full_key {s : State} (hm : s.kwmask = 0b1111) :
    exec .keyExpand s = .next (finish none (clearKey (installSchedule s))) := by
  rw [exec_keyExpand, if_neg (not_not.2 hm)]

/-- KEY_EXPAND with a key word missing (R131). -/
theorem exec_keyExpand_of_missing_word {s : State} (hm : s.kwmask ≠ 0b1111) :
    exec .keyExpand s = .next (raise .invalidKeyLength s) := by
  rw [exec_keyExpand, if_pos hm]

/-- Settles O13: the words of `keyExpansion` by their recurrence, the rest by the frame of the family. -/
theorem keyExpandDerivesTheSchedule : Obligations.KeyExpandDerivesTheSchedule := by
  refine ⟨rfl, fun s => ⟨fun hm => ⟨_, exec_keyExpand_of_full_key hm, ?_⟩, fun hm =>
    ⟨_, exec_keyExpand_of_missing_word hm, raisesOnly_raise .invalidKeyLength s, rfl⟩⟩⟩
  simp only [finish_none_rk, clearKey_rk, installSchedule_rk]
  refine ⟨fun j hj => schedWord_keyExpansion_of_lt_four s.key hj, fun i h4 h44 hmod => ?_,
    fun i h4 h44 hmod => ?_, rfl, fun r h1 h9 => rcon_succ h1 h9, rfl, rfl, rfl,
    finish_none_frame s Block.zero 0 (keyExpansion s.key) true⟩
  · rw [schedWord_keyExpansion_of_four_le s.key h4 h44, scheduleTemp_of_mod_ne_zero hmod]
  · rw [schedWord_keyExpansion_of_four_le s.key h4 h44, scheduleTemp_of_mod_eq_zero hmod]

end Sys2Proof.Machine
end

section
/-! SUPPORT. The family of 41_inverse_cipher.md: each stage byte by byte and its inverse stage of the forward
cipher, what the commands on STATE do and leave unchanged, and a run of the 40 stage commands. -/

namespace Sys2Proof

/-- The four bytes of column `c` (R11). -/
theorem Block.bytes_four_mul (x : Block) (c : Nat) :
    x.byte (4 * c) = (x.col c).b0 ∧ x.byte (4 * c + 1) = (x.col c).b1 ∧
      x.byte (4 * c + 2) = (x.col c).b2 ∧ x.byte (4 * c + 3) = (x.col c).b3 := by
  have hbyte : ∀ k < 4, x.byte (4 * c + k) = (x.col c).byte k := fun k hk => by
    rw [Block.byte, show (4 * c + k) / 4 = c by omega, show (4 * c + k) % 4 = k by omega]
  exact ⟨hbyte 0 (by decide), hbyte 1 (by decide), hbyte 2 (by decide), hbyte 3 (by decide)⟩

end Sys2Proof

namespace Sys2Proof.Machine

/-! ### The stages byte by byte -/

theorem byte_invShiftRowsF (s : Block) {i : Nat} (hi : i < 16) :
    (invShiftRowsF s).byte i = s.byte (4 * ((i / 4 + 4 - i % 4) % 4) + i % 4) :=
  Block.byte_ofFn _ hi

theorem byte_shiftRowsF (s : Block) {i : Nat} (hi : i < 16) :
    (shiftRowsF s).byte i = s.byte (4 * ((i / 4 + i % 4) % 4) + i % 4) :=
  Block.byte_ofFn _ hi

theorem byte_invSubBytesF (s : Block) {i : Nat} (hi : i < 16) :
    (invSubBytesF s).byte i = invSbox (s.byte i) :=
  Block.byte_ofFn _ hi

theorem byte_subBytesF (s : Block) {i : Nat} (hi : i < 16) :
    (subBytesF s).byte i = sbox (s.byte i) :=
  Block.byte_ofFn _ hi

theorem byte_addRoundKeyF (rk : Schedule) (s : Block) (r : Nat) {i : Nat} (hi : i < 16) :
    (addRoundKeyF rk s r).byte i = s.byte i ^^^ rkByte rk (16 * r + i) :=
  Block.byte_ofFn _ hi

theorem col_invMixColumnsF (s : Block) (c : Nat) :
    (invMixColumnsF s).col c = invMixColumn (s.col c) := by
  match c with
  | 0 | 1 | 2 | _ + 3 => rfl

/-- Row `r` moves right by `r` positions (R161). -/
theorem byte_invShiftRowsF_shifted (s : Block) {r c : Nat} (hr : r < 4) (hc : c < 4) :
    (invShiftRowsF s).byte (4 * ((c + r) % 4) + r) = s.byte (4 * c + r) := by
  rw [byte_invShiftRowsF s (by omega)]
  congr 1
  omega

/-- Byte `i` of round key `r` is row `i mod 4` of word `4r + i div 4` (R24, R128). -/
theorem rkByte_eq_byte_schedWord (rk : Schedule) (r i : Nat) :
    rkByte rk (16 * r + i) = (schedWord rk (4 * r + i / 4)).byte (i % 4) := by
  rw [rkByte, show (16 * r + i) / 4 = 4 * r + i / 4 by omega,
    show (16 * r + i) % 4 = i % 4 by omega]

/-! ### The S-boxes (R160) -/

/-- The tables of R122 and R160, entry by entry. -/
theorem invSbox_sbox : ∀ x : Byte, invSbox (sbox x) = x := by
  decide

/-- On the 256 bytes a left inverse is a right inverse. -/
theorem sbox_invSbox (x : Byte) : sbox (invSbox x) = x := by
  have hinj : Function.Injective sbox := Function.LeftInverse.injective invSbox_sbox
  obtain ⟨y, rfl⟩ := Finite.surjective_of_injective hinj x
  rw [invSbox_sbox]

/-- Settles O33: the tables, entry by entry, in one direction; the other follows. -/
theorem invSboxInvertsSbox : Obligations.InvSboxInvertsSbox :=
  fun x => ⟨invSbox_sbox x, sbox_invSbox x⟩

/-! ### The laws of the stages (R161, R163, R164) -/

theorem invShiftRowsF_four_times (s : Block) :
    invShiftRowsF (invShiftRowsF (invShiftRowsF (invShiftRowsF s))) = s := by
  refine Block.ext_byte fun i hi => ?_
  simp (disch := omega) only [byte_invShiftRowsF]
  congr 1
  omega

theorem invShiftRowsF_invSubBytesF (s : Block) :
    invShiftRowsF (invSubBytesF s) = invSubBytesF (invShiftRowsF s) := by
  refine Block.ext_byte fun i hi => ?_
  rw [byte_invSubBytesF _ hi, byte_invShiftRowsF _ hi, byte_invShiftRowsF _ hi,
    byte_invSubBytesF _ (by omega)]

theorem addRoundKeyF_addRoundKeyF (rk : Schedule) (s : Block) (r : Nat) :
    addRoundKeyF rk (addRoundKeyF rk s r) r = s := by
  refine Block.ext_byte fun i hi => ?_
  rw [byte_addRoundKeyF _ _ _ hi, byte_addRoundKeyF _ _ _ hi, BitVec.xor_assoc, BitVec.xor_self,
    BitVec.xor_zero]

theorem invMixColumn_xor (x y : Col) :
    invMixColumn (Col.xor x y) = Col.xor (invMixColumn x) (invMixColumn y) := by
  simp only [invMixColumn, Col.xor, gmul_xor_right, Col.mk.injEq]
  refine ⟨?_, ?_, ?_, ?_⟩ <;> ac_rfl

theorem invMixColumn_zero : invMixColumn Col.zero = Col.zero := by
  simp only [invMixColumn, Col.zero, gmul_zero]
  rfl

/-- The coefficients of each row of the matrix sum to 1. -/
theorem invMixColumn_of_equal_bytes (b : Byte) : invMixColumn ⟨b, b, b, b⟩ = ⟨b, b, b, b⟩ := by
  simp only [invMixColumn, ← gmul_xor_left, Col.mk.injEq]
  exact ⟨one_gmul b, one_gmul b, one_gmul b, one_gmul b⟩

/-- Settles O35, law by law. -/
theorem stageLaws : Obligations.StageLaws :=
  ⟨invShiftRowsF_four_times, invShiftRowsF_invSubBytesF, invMixColumn_xor, invMixColumn_zero,
    invMixColumn_of_equal_bytes, addRoundKeyF_addRoundKeyF⟩

/-! ### Each inverse stage undoes the stage of the forward cipher (R167) -/

theorem invShiftRowsF_shiftRowsF (s : Block) : invShiftRowsF (shiftRowsF s) = s := by
  refine Block.ext_byte fun i hi => ?_
  rw [byte_invShiftRowsF _ hi, byte_shiftRowsF _ (by omega)]
  congr 1
  omega

theorem invSubBytesF_subBytesF (s : Block) : invSubBytesF (subBytesF s) = s := by
  refine Block.ext_byte fun i hi => ?_
  rw [byte_invSubBytesF _ hi, byte_subBytesF _ hi, invSbox_sbox]

/-- The rows of the matrix are rotations of its first row, so a rotated column gives a rotated product. -/
theorem mixColumn_rotWord (a : Col) : mixColumn (rotWord a) = rotWord (mixColumn a) := by
  simp only [mixColumn, rotWord, Col.mk.injEq]
  refine ⟨?_, ?_, ?_, ?_⟩ <;> ac_rfl

theorem invMixColumn_rotWord (a : Col) :
    invMixColumn (rotWord a) = rotWord (invMixColumn a) := by
  simp only [invMixColumn, rotWord, Col.mk.injEq]
  refine ⟨?_, ?_, ?_, ?_⟩ <;> ac_rfl

/-- The first row of the product of the two matrices is 01 00 00 00. -/
theorem invMixColumn_mixColumn_b0 (a : Col) : (invMixColumn (mixColumn a)).b0 = a.b0 := by
  calc (invMixColumn (mixColumn a)).b0
    _ = gmul (gmul 0x0E 0x02 ^^^ gmul 0x0B 0x01 ^^^ gmul 0x0D 0x01 ^^^ gmul 0x09 0x03) a.b0 ^^^
        gmul (gmul 0x0E 0x03 ^^^ gmul 0x0B 0x02 ^^^ gmul 0x0D 0x01 ^^^ gmul 0x09 0x01) a.b1 ^^^
        gmul (gmul 0x0E 0x01 ^^^ gmul 0x0B 0x03 ^^^ gmul 0x0D 0x02 ^^^ gmul 0x09 0x01) a.b2 ^^^
        gmul (gmul 0x0E 0x01 ^^^ gmul 0x0B 0x01 ^^^ gmul 0x0D 0x03 ^^^ gmul 0x09 0x02) a.b3 := by
      simp only [invMixColumn, mixColumn, gmul_xor_left, gmul_xor_right, gmul_assoc]
      ac_rfl
    _ = gmul 1 a.b0 ^^^ gmul 0 a.b1 ^^^ gmul 0 a.b2 ^^^ gmul 0 a.b3 := rfl
    _ = a.b0 := by simp only [one_gmul, zero_gmul]; simp

/-- Byte `r` is the first byte of the column rotated `r` times. -/
theorem invMixColumn_mixColumn (a : Col) : invMixColumn (mixColumn a) = a := by
  have hrot : ∀ x : Col, invMixColumn (mixColumn (rotWord x)) =
      rotWord (invMixColumn (mixColumn x)) := fun x => by
    rw [mixColumn_rotWord, invMixColumn_rotWord]
  have h0 := invMixColumn_mixColumn_b0 a
  have h1 := invMixColumn_mixColumn_b0 (rotWord a)
  have h2 := invMixColumn_mixColumn_b0 (rotWord (rotWord a))
  have h3 := invMixColumn_mixColumn_b0 (rotWord (rotWord (rotWord a)))
  simp only [hrot] at h1 h2 h3
  exact congr (congr (congr (congrArg Col.mk h0) h1) h2) h3

theorem invMixColumnsF_mixColumnsF (s : Block) : invMixColumnsF (mixColumnsF s) = s := by
  simp only [invMixColumnsF, mixColumnsF, invMixColumn_mixColumn]

/-- The rounds `n` down to 1 of the inverse cipher undo the rounds 1 to `n` of the forward cipher, with SubBytes
and ShiftRows of the round after them on both sides. -/
theorem invRounds_forwardRounds (rk : Schedule) (n : Nat) (s : Block) :
    invRounds rk n (shiftRowsF (subBytesF (forwardRounds rk n s))) = shiftRowsF (subBytesF s) := by
  induction n with
  | zero => rfl
  | succ n ih =>
    rw [invRounds, invShiftRowsF_shiftRowsF, invSubBytesF_subBytesF, forwardRounds,
      addRoundKeyF_addRoundKeyF, invMixColumnsF_mixColumnsF, ih]

/-- The round trip holds under every schedule. -/
theorem invCipher_forwardCipher (rk : Schedule) (p : Block) :
    invCipher (forwardCipher p rk) rk = p := by
  rw [invCipher, forwardCipher, addRoundKeyF_addRoundKeyF, invRounds_forwardRounds,
    invShiftRowsF_shiftRowsF, invSubBytesF_subBytesF, addRoundKeyF_addRoundKeyF]

/-- Settles O36, under the schedule of the key. -/
theorem inverseCipherUndoesTheCipher : Obligations.InverseCipherUndoesTheCipher :=
  fun k p => invCipher_forwardCipher (keyExpansion k) p

/-! ### The commands -/

/-- A command that writes STATE and completes: what it leaves unchanged. -/
theorem finish_none_setState_frame (v : Block) (s : State) :
    let t := finish none (setState v s)
    completesOk s t ∧ sameKey s t ∧ sameSchedule s t ∧ sameMsg s t ∧ t.outlen = s.outlen ∧
      sameRest s t :=
  ⟨⟨rfl, rfl, rfl, rfl, rfl⟩, ⟨rfl, rfl⟩, ⟨rfl, rfl⟩, fun _ => rfl, rfl,
    rfl, rfl, rfl, rfl, rfl, rfl, rfl, rfl, rfl, rfl, rfl, rfl, rfl⟩

/-- A command that writes a block of MSG and completes: what it leaves unchanged. -/
theorem finish_none_writeBlock_frame (b : Nat) (v : Block) (s : State) :
    let t := finish none (s.writeBlock b v)
    completesOk s t ∧ sameKey s t ∧ sameSchedule s t ∧ t.state = s.state ∧ t.outlen = s.outlen ∧
      sameRest s t := by
  simp [completesOk, sameKey, sameSchedule, sameRest, sameModel]

section
variable {s : State}

/-- LOAD_STATE of a block of MSG (R170). -/
theorem exec_loadState_of_lt {b : Nat} (hb : b < s.params.msgBlocks) :
    exec (.loadState b) s = .next (finish none (setState (s.readBlock b) s)) := by
  rw [exec_loadState, if_pos hb]

/-- LOAD_STATE past the last block (R170). -/
theorem exec_loadState_of_le {b : Nat} (hb : s.params.msgBlocks ≤ b) :
    exec (.loadState b) s = .next (raise .badOperand s) := by
  rw [exec_loadState, if_neg (Nat.not_lt.2 hb)]

/-- STORE_STATE to a block of MSG (R171). -/
theorem exec_storeState_of_lt {b : Nat} (hb : b < s.params.msgBlocks) :
    exec (.storeState b) s = .next (finish none (s.writeBlock b s.state)) := by
  rw [exec_storeState, if_pos hb]

/-- STORE_STATE past the last block (R171). -/
theorem exec_storeState_of_le {b : Nat} (hb : s.params.msgBlocks ≤ b) :
    exec (.storeState b) s = .next (raise .badOperand s) := by
  rw [exec_storeState, if_neg (Nat.not_lt.2 hb)]

/-- ADD_ROUND_KEY with a legal round and a schedule (R175). -/
theorem exec_addRoundKey_of_schedule {r : Nat} (hr : r ≤ 10) (hv : s.sv = true) :
    exec (.addRoundKey r) s = .next (finish none (setState (addRoundKeyF s.rk s.state r) s)) := by
  rw [exec_addRoundKey, if_neg (Nat.not_lt.2 hr), if_neg (by simp [hv])]

/-- ADD_ROUND_KEY past the last round, whatever SV is (R175, R244). -/
theorem exec_addRoundKey_of_lt {r : Nat} (hr : 10 < r) :
    exec (.addRoundKey r) s = .next (raise .badOperand s) := by
  rw [exec_addRoundKey, if_pos hr]

/-- DECRYPT_STATE with a schedule (R176). -/
theorem exec_decryptState_of_schedule (hv : s.sv = true) :
    exec .decryptState s = .next (finish none (setState (invCipher s.state s.rk) s)) := by
  rw [exec_decryptState, if_neg (by simp [hv])]

end

/-- Settles O16: STATE is the block read, or BadOperand is raised on the state as it was. -/
theorem loadStateCopiesTheBlock : Obligations.LoadStateCopiesTheBlock := fun s b =>
  ⟨rfl,
    fun hb => ⟨_, exec_loadState_of_lt hb, fun _ hk => State.byte_readBlock s b hk,
      finish_none_setState_frame (s.readBlock b) s⟩,
    fun hb => ⟨_, exec_loadState_of_le hb, raisesOnly_raise .badOperand s, rfl⟩⟩

/-- Settles O17: the bytes of MSG by the law of a block write. -/
theorem storeStateWritesTheBlock : Obligations.StoreStateWritesTheBlock := fun s b =>
  ⟨rfl,
    fun hb => ⟨_, exec_storeState_of_lt hb, fun a => by
      rw [finish_msgByte, State.msgByte_writeBlock], finish_none_writeBlock_frame b s.state s⟩,
    fun hb => ⟨_, exec_storeState_of_le hb, raisesOnly_raise .badOperand s, rfl⟩⟩

/-- Settles O18: the law of InvShiftRows by rows and columns, and the frame of a write of STATE. -/
theorem invShiftRowsShiftsEachRow : Obligations.InvShiftRowsShiftsEachRow :=
  ⟨rfl, fun s => ⟨_, exec_invShiftRows s,
    fun _ hr _ hc => byte_invShiftRowsF_shifted s.state hr hc, finish_none_setState_frame _ s⟩⟩

/-- Settles O19: that SBOX gives the old byte back is `sbox_invSbox`. -/
theorem invSubBytesSubstitutesEachByte : Obligations.InvSubBytesSubstitutesEachByte := by
  refine ⟨rfl, fun s => ⟨_, exec_invSubBytes s, fun i hi => ?_, finish_none_setState_frame _ s⟩⟩
  rw [finish_none_state, setState_state, byte_invSubBytesF s.state hi]
  exact ⟨rfl, sbox_invSbox _⟩

/-- Settles O20: each column by `col_invMixColumnsF`, its bytes by the rows of `invMixColumn`. -/
theorem invMixColumnsMultipliesEachColumn : Obligations.InvMixColumnsMultipliesEachColumn := by
  refine ⟨rfl, fun s => ⟨_, exec_invMixColumns s, ?_, finish_none_setState_frame _ s⟩⟩
  rintro c - _ _ _ _ rfl rfl rfl rfl
  obtain ⟨h0, h1, h2, h3⟩ := Block.bytes_four_mul s.state c
  obtain ⟨n0, n1, n2, n3⟩ := Block.bytes_four_mul (invMixColumnsF s.state) c
  rw [finish_none_state, setState_state, n0, n1, n2, n3, h0, h1, h2, h3, col_invMixColumnsF]
  exact ⟨rfl, rfl, rfl, rfl⟩

/-- Settles O21: the three outcomes of its checks, BadOperand first. -/
theorem addRoundKeyXorsTheRoundKey : Obligations.AddRoundKeyXorsTheRoundKey := by
  refine fun s r => ⟨rfl, fun hr hv => ⟨_, exec_addRoundKey_of_schedule hr hv, fun i hi => ?_,
      finish_none_setState_frame _ s⟩,
    fun hr => ⟨_, exec_addRoundKey_of_lt hr, raisesOnly_raise .badOperand s, rfl⟩,
    fun hr hv => ⟨_, exec_addRoundKey_of_no_schedule hr hv, raisesOnly_raise .noSchedule s, rfl⟩⟩
  rw [finish_none_state, setState_state, byte_addRoundKeyF _ _ _ hi, rkByte_eq_byte_schedWord]

/-- Settles O22: the two outcomes of its check of SV. -/
theorem decryptStateAppliesTheInverseCipher : Obligations.DecryptStateAppliesTheInverseCipher :=
  ⟨rfl, fun s =>
    ⟨fun hv => ⟨_, exec_decryptState_of_schedule hv, rfl, finish_none_setState_frame _ s⟩,
    fun hv => ⟨_, exec_decryptState_of_no_schedule hv, raisesOnly_raise .noSchedule s, rfl⟩⟩⟩

/-! ### Runs of commands on STATE (R177) -/

/-- With SV = 1 the command, which has a word, replaces STATE by `f` of the schedule and STATE and completes. -/
def CommandMapsState (i : Instr) (f : Schedule → Block → Block) : Prop :=
  (∃ w, encode i = some w ∧ decode w = .ok i) ∧
    ∀ s : State, s.sv = true → exec i s = .next (finish none (setState (f s.rk s.state) s))

/-- With SV = 1 the commands, each accepted and performed in turn, replace STATE by `f` of the schedule and
STATE. -/
def RunMapsState (is : List Instr) (f : Schedule → Block → Block) : Prop :=
  ∀ s : State, s.sv = true → ∃ t, runCommands is s = .next t ∧ t.state = f s.rk s.state

theorem RunMapsState.nil : RunMapsState [] fun _ x => x :=
  fun s _ => ⟨s, rfl, rfl⟩

/-- The first command of a run, accepted and performed. -/
theorem runCommands_cons {i : Instr} {w : Word} {s t : State} (henc : encode i = some w)
    (hstep : coreStep (acceptCommand w s) = .next t) (is : List Instr) :
    runCommands (i :: is) s = runCommands is t := by
  simp only [runCommands, henc, hstep]

/-- A command that maps STATE, accepted and performed, leaves the schedule for the command after it. -/
theorem CommandMapsState.next {i : Instr} {f : Schedule → Block → Block} (hi : CommandMapsState i f)
    {s : State} (hv : s.sv = true) : ∃ w t, encode i = some w ∧
      coreStep (acceptCommand w s) = .next t ∧ t.sv = true ∧ t.rk = s.rk ∧
      t.state = f s.rk s.state := by
  obtain ⟨⟨w, henc, hdec⟩, hexec⟩ := hi
  exact ⟨w, _, henc, (coreStep_exec (acceptCommand w s) rfl hdec).trans
    (hexec (acceptCommand w s) hv), hv, rfl, rfl⟩

theorem CommandMapsState.run_cons {i : Instr} {is : List Instr} {f g : Schedule → Block → Block}
    (hi : CommandMapsState i f) (his : RunMapsState is g) :
    RunMapsState (i :: is) fun rk x => g rk (f rk x) := by
  intro s hv
  obtain ⟨w, t, henc, hstep, htv, hrk, hstate⟩ := hi.next hv
  obtain ⟨u, hu, hustate⟩ := his t htv
  refine ⟨u, (runCommands_cons henc hstep is).trans hu, ?_⟩
  rw [hustate, hrk, hstate]

theorem decode_of_encode {i : Instr} {w : Word} (hi : i.wellFormed = true)
    (henc : encode i = some w) : decode w = .ok i := by
  have h := decodeOfEncodeIsTheInstruction i hi
  rwa [henc] at h

theorem invShiftRows_mapsState : CommandMapsState .invShiftRows fun _ => invShiftRowsF :=
  ⟨⟨_, rfl, decode_of_encode rfl rfl⟩, fun s _ => exec_invShiftRows s⟩

theorem invSubBytes_mapsState : CommandMapsState .invSubBytes fun _ => invSubBytesF :=
  ⟨⟨_, rfl, decode_of_encode rfl rfl⟩, fun s _ => exec_invSubBytes s⟩

theorem invMixColumns_mapsState : CommandMapsState .invMixColumns fun _ => invMixColumnsF :=
  ⟨⟨_, rfl, decode_of_encode rfl rfl⟩, fun s _ => exec_invMixColumns s⟩

theorem addRoundKey_mapsState {r : Nat} (hr : r ≤ 10) :
    CommandMapsState (.addRoundKey r) fun rk x => addRoundKeyF rk x r :=
  ⟨⟨_, rfl, decode_of_encode (decide_eq_true (by omega)) rfl⟩,
    fun _ hv => exec_addRoundKey_of_schedule hr hv⟩

theorem decryptState_mapsState : CommandMapsState .decryptState fun rk x => invCipher x rk :=
  ⟨⟨_, rfl, decode_of_encode rfl rfl⟩, fun _ hv => exec_decryptState_of_schedule hv⟩

/-- The stage commands of the rounds `n` down to 1 are `invRounds`, whatever commands come after them. -/
theorem stageRounds_mapsState {is : List Instr} {g : Schedule → Block → Block}
    (his : RunMapsState is g) {n : Nat} (hn : n ≤ 10) :
    RunMapsState (stageRounds n ++ is) fun rk x => g rk (invRounds rk n x) := by
  induction n with
  | zero => exact his
  | succ n ih =>
    exact invShiftRows_mapsState.run_cons <| invSubBytes_mapsState.run_cons <|
      (addRoundKey_mapsState hn).run_cons <| invMixColumns_mapsState.run_cons <| ih (by omega)

/-- The 40 stage commands are the inverse cipher, stage by stage (R165, R177). -/
theorem stageCommands_mapsState : RunMapsState stageCommands fun rk x => invCipher x rk :=
  have hlast : RunMapsState [.invShiftRows, .invSubBytes, .addRoundKey 0]
      fun rk x => addRoundKeyF rk (invSubBytesF (invShiftRowsF x)) 0 :=
    invShiftRows_mapsState.run_cons <| invSubBytes_mapsState.run_cons <|
      (addRoundKey_mapsState (by decide)).run_cons .nil
  (addRoundKey_mapsState (by decide)).run_cons (stageRounds_mapsState hlast (n := 9) (by decide))

/-- Settles O23: both runs map STATE by the inverse cipher. -/
theorem stageCommandsComposeToDecryptState : Obligations.StageCommandsComposeToDecryptState := by
  refine ⟨rfl, fun s hv => ?_⟩
  obtain ⟨t, ht, htstate⟩ := decryptState_mapsState.run_cons .nil s hv
  obtain ⟨u, hu, hustate⟩ := stageCommands_mapsState s hv
  exact ⟨t, u, ht, hu, htstate.trans hustate.symm⟩

end Sys2Proof.Machine
end

section
/-! SUPPORT. The family of 42_ecb_sequencer.md: the outcomes of the setup step, one block step and the memory it
leaves, the finish step by the pad, and the run of a whole job put together from the three. -/

namespace Sys2Proof.Machine

/-! ### The setup step (R201) -/

section
variable {s : State}

/-- A length of one of the three kinds that R201 names is not legal. -/
theorem lengthLegal_eq_false {p : Params} {l : BitVec 13}
    (h : l.toNat = 0 ∨ l.toNat % 16 ≠ 0 ∨ p.msgBytes < l.toNat) : lengthLegal p l = false := by
  rw [← Bool.not_eq_true, lengthLegal_iff]
  omega

theorem exec_ecbDecrypt_of_illegal_length
    (h : s.len.toNat = 0 ∨ s.len.toNat % 16 ≠ 0 ∨ s.params.msgBytes < s.len.toNat) :
    exec .ecbDecrypt s = .next (raise .invalidInputLength (setOutlen 0 s)) := by
  rw [exec_ecbDecrypt, if_pos (lengthLegal_eq_false h)]

theorem exec_ecbDecrypt_of_missing_word (hl : lengthLegal s.params s.len = true)
    (hm : s.kwmask ≠ 0b1111) :
    exec .ecbDecrypt s = .next (raise .invalidKeyLength (setOutlen 0 s)) := by
  rw [exec_ecbDecrypt, if_neg (by simp [hl]), if_pos hm]

theorem exec_ecbDecrypt_of_legal (hl : lengthLegal s.params s.len = true)
    (hm : s.kwmask = 0b1111) :
    exec .ecbDecrypt s = .next (startJob (setOutlen 0 s)) := by
  rw [exec_ecbDecrypt, if_neg (by simp [hl]), if_neg (not_not.2 hm)]

/-- A raise that keeps a write of OUTLEN (R201, R241): OUTLEN apart, it is a raise on the state as it was. -/
theorem raisesOnly_raise_setOutlen (e : CmdError) (n : Nat) (s : State) :
    raisesOnly e.code s (raise e (setOutlen n s)) :=
  raisesOnly_raise e (setOutlen n s)

end

/-- Settles O24: the three outcomes of the checks, the length first. -/
theorem ecbSetupStartsTheJob : Obligations.EcbSetupStartsTheJob := by
  refine ⟨rfl, fun s => ⟨fun h0 hmod hle hm => ?_, fun h => ?_, fun h0 hmod hle hm => ?_⟩⟩
  · refine ⟨_, exec_ecbDecrypt_of_legal ((lengthLegal_iff _ _).2 ⟨h0, hmod, hle⟩) hm, ?_⟩
    exact ⟨rfl, rfl, rfl, rfl, rfl, rfl, fun _ => List.mem_range, List.nodup_range, rfl, rfl, rfl,
      rfl, rfl, rfl, rfl, fun _ => rfl, rfl, rfl, rfl, rfl, rfl, rfl, rfl, rfl, rfl, rfl⟩
  · exact ⟨_, exec_ecbDecrypt_of_illegal_length h,
      raisesOnly_raise_setOutlen .invalidInputLength 0 s, rfl⟩
  · exact ⟨_, exec_ecbDecrypt_of_missing_word ((lengthLegal_iff _ _).2 ⟨h0, hmod, hle⟩) hm,
      raisesOnly_raise_setOutlen .invalidKeyLength 0 s, rfl⟩

/-! ### The block step (R202) -/

section
variable {s : State}

/-- Every pending block is picked by some draw, its place in the list (log 5). -/
theorem exists_pickBlock_eq {l : List Nat} {b : Nat} (hb : b ∈ l) : ∃ n, pickBlock l n = b := by
  match l with
  | [c] => exact ⟨0, (List.mem_singleton.1 hb).symm⟩
  | c :: d :: m =>
    obtain ⟨n, hn, rfl⟩ := List.getElem_of_mem hb
    refine ⟨n, ?_⟩
    rw [pickBlock, Nat.mod_eq_of_lt hn, List.getD_eq_getElem (hn := hn)]
    simp

/-- The core step in PHASE = ECB_BLOCKS on the block that the draw picks (R97, R202). -/
theorem coreStep_of_pending (hp : s.phase = .ecbBlocks) (hne : s.pending ≠ [])
    (hin : ∀ b ∈ s.pending, b < s.params.msgBlocks) :
    coreStep s =
      .next (blockDone (pickBlock s.pending (Config.blockChoice s.draws)) (countDraw s)) := by
  rw [coreStep_ecbBlocks s hp, ecbBlockStep_of_pending s hne]
  exact decryptBlock_next (countDraw s) (hin _ (pickBlock_mem _ hne))

end

/-- Settles O25: the fields of `blockDone` for the block picked. -/
theorem ecbBlockStepDecryptsOnePendingBlock : Obligations.EcbBlockStepDecryptsOnePendingBlock := by
  intro s hp hne hnd hin
  refine ⟨⟨_, pickBlock_mem _ hne, rfl, _, coreStep_of_pending hp hne hin,
    fun a => msgByte_blockDone (countDraw s) _ a, fun x => ?_, fun h => ?_, fun h => ?_, ?_⟩,
    fun b hb => exists_pickBlock_eq hb⟩
  · rw [blockDone_pending, countDraw_pending, hnd.mem_erase_iff, and_comm]
  · rw [blockDone_pending] at h
    rw [blockDone_phase, h]
    rfl
  · rw [blockDone_pending] at h
    rw [blockDone_phase, if_neg (by simpa using h)]
  · simp [sameKey, sameSchedule]

/-! ### The order of the block steps (R209) -/

section
variable {s : State}

/-- The memory after a block step (R202), as data: what block `b` reads, and no other offset. -/
theorem read?_blockDone (s : State) (b x : Nat) : Memory.read? (blockDone b s).msg x =
    if x / 16 = b then some ((invCipher (s.readBlock b) s.rk).byte (x % 16))
    else Memory.read? s.msg x := by
  rw [blockDone_msg, State.writeBlock, State.memWrite, Memory.read?_writeList]
  by_cases h : x / 16 = b
  · rw [if_pos (by omega), dif_pos (by rw [Block.length_toList]; omega), Block.getElem_toList,
      if_pos h, show x - 16 * b = x % 16 by omega]
  · rw [if_neg h]
    split_ifs with h1 h2
    · rw [Block.length_toList] at h2
      omega
    · rfl
    · rfl

/-- A block step leaves every other block as it was (R202). -/
theorem readBlock_blockDone_of_ne (s : State) {b c : Nat} (h : b ≠ c) :
    (blockDone c s).readBlock b = s.readBlock b :=
  Block.ofFn_congr fun i hi => by rw [msgByte_blockDone, if_neg (by omega)]

theorem wf_blockDone (b : Nat) (h : Memory.wf s.msg = true) :
    Memory.wf (blockDone b s).msg = true := by
  rw [blockDone_msg]
  exact State.wf_writeBlock b _ h

/-- Two block steps write the same memory in either order: each block's plaintext comes from that block
alone. -/
theorem blockDone_blockDone_msg (h : Memory.wf s.msg = true) {b c : Nat} (hne : b ≠ c) :
    (blockDone b (blockDone c s)).msg = (blockDone c (blockDone b s)).msg := by
  refine Memory.ext_read? (wf_blockDone b (wf_blockDone c h)) (wf_blockDone c (wf_blockDone b h))
    fun x => ?_
  rw [read?_blockDone, read?_blockDone, read?_blockDone, read?_blockDone, blockDone_rk, blockDone_rk,
    readBlock_blockDone_of_ne s hne, readBlock_blockDone_of_ne s hne.symm]
  by_cases hb : x / 16 = b
  · rw [if_pos hb, if_neg (hb ▸ hne), if_pos hb]
  · rw [if_neg hb, if_neg hb]

/-- A block step writes nothing but MSG, PENDING and PHASE (R202). -/
theorem blockDone_eq (b : Nat) (s : State) : blockDone b s = { s with
    msg := (blockDone b s).msg
    pending := s.pending.erase b
    phase := if (s.pending.erase b).isEmpty then .ecbFinish else .ecbBlocks } := by
  rw [blockDone_msg]
  unfold blockDone
  rfl

/-- Two block steps: PENDING and PHASE come from PENDING alone. -/
theorem blockDone_blockDone_eq (b c : Nat) (s : State) : blockDone b (blockDone c s) = { s with
    msg := (blockDone b (blockDone c s)).msg
    pending := (s.pending.erase c).erase b
    phase := if ((s.pending.erase c).erase b).isEmpty then .ecbFinish else .ecbBlocks } :=
  (blockDone_eq b (blockDone c s)).trans (by simp)

theorem blockDone_comm (h : Memory.wf s.msg = true) (b c : Nat) :
    blockDone b (blockDone c s) = blockDone c (blockDone b s) := by
  by_cases hne : b = c
  · rw [hne]
  · rw [blockDone_blockDone_eq b c, blockDone_blockDone_msg h hne, List.erase_comm c b,
      ← blockDone_blockDone_eq c b]

theorem runBlocks_cons {b : Nat} (hb : b < s.params.msgBlocks) (bs : List Nat) :
    runBlocks (b :: bs) s = runBlocks bs (blockDone b s) := by
  rw [runBlocks, decryptBlock_next s hb]

/-- Block steps on blocks of the buffer are all answered. -/
theorem runBlocks_answers (bs : List Nat) :
    ∀ s : State, (∀ b ∈ bs, b < s.params.msgBlocks) → ∃ t, runBlocks bs s = .next t := by
  induction bs with
  | nil => exact fun s _ => ⟨s, rfl⟩
  | cons b bs ih =>
    intro s hin
    obtain ⟨hb, hbs⟩ := List.forall_mem_cons.1 hin
    rw [runBlocks_cons hb]
    exact ih _ (by rwa [blockDone_params])

/-- Lists that are permutations of each other give the same run: neighbours may change places by
`blockDone_comm`. -/
theorem runBlocks_eq_of_perm {bs cs : List Nat} (hperm : bs.Perm cs) :
    ∀ s : State, Memory.wf s.msg = true → (∀ b ∈ bs, b < s.params.msgBlocks) →
      runBlocks bs s = runBlocks cs s := by
  induction hperm with
  | nil => exact fun _ _ _ => rfl
  | cons b _ ih =>
    intro s hwf hin
    obtain ⟨hb, hbs⟩ := List.forall_mem_cons.1 hin
    rw [runBlocks_cons hb, runBlocks_cons hb]
    exact ih _ (wf_blockDone b hwf) (by rwa [blockDone_params])
  | swap b c l =>
    intro s hwf hin
    have hb : b < s.params.msgBlocks := hin b (by simp)
    have hc : c < s.params.msgBlocks := hin c (by simp)
    rw [runBlocks_cons hc, runBlocks_cons (by rwa [blockDone_params]), runBlocks_cons hb,
      runBlocks_cons (by rwa [blockDone_params]), blockDone_comm hwf]
  | trans hbc _ ih₁ ih₂ =>
    intro s hwf hin
    exact (ih₁ s hwf hin).trans (ih₂ s hwf fun b hb => hin b (hbc.mem_iff.2 hb))

end

/-- Settles O27: both orders are permutations of PENDING, so of each other. -/
theorem ecbBlockOrderDoesNotMatter : Obligations.EcbBlockOrderDoesNotMatter := by
  intro s first second hwf _ hin hfirst hsecond
  have hinFirst : ∀ b ∈ first, b < s.params.msgBlocks := fun b hb => hin b (hfirst.mem_iff.1 hb)
  obtain ⟨t, ht⟩ := runBlocks_answers first s hinFirst
  exact ⟨t, ht, (runBlocks_eq_of_perm (hfirst.trans hsecond.symm) s hwf hinFirst).symm.trans ht⟩

/-! ### The finish step (R203 to R208) -/

section
variable {s : State}

/-- `Pkcs7Valid` looks at no byte outside the text (R204), so it agrees on texts that read alike. -/
theorem padValid_congr {m n : Nat → Byte} {l : Nat} (hl : 16 ≤ l) (h : ∀ a < l, m a = n a) :
    padValid m l ↔ padValid n l := by
  unfold padValid
  rw [h (l - 1) (by omega)]
  refine and_congr_right fun h1 => and_congr_right fun h16 => forall₂_congr fun k hk => ?_
  rw [h (l - (n (l - 1)).toNat + k) (by omega)]

/-- The model's check of the bytes read is the check of R204. -/
theorem pkcs7Valid_memRead_iff {l : Nat} (hl : 16 ≤ l) :
    pkcs7Valid (s.memRead 0 l) = true ↔ padValid s.msgByte l := by
  have hread : ∀ a < l, (s.memRead 0 l).getD a 0 = s.msgByte a := fun a ha => by
    rw [State.getD_memRead l s 0 ha, Nat.zero_add]
  rw [← padValid_congr hl hread]
  simp [pkcs7Valid, padValid, and_assoc, ← BitVec.toNat_inj]

/-- With a valid pad the finish step cuts it off (R203). -/
theorem coreStep_finish_of_padValid (hp : s.phase = .ecbFinish) (h16 : 16 ≤ s.len.toNat)
    (hle : s.len.toNat ≤ s.params.msgBytes) (hpad : padValid s.msgByte s.len.toNat) :
    coreStep s = .next (finish none
      (setOutlen (s.len.toNat - (s.msgByte (s.len.toNat - 1)).toNat) (discardSchedule s))) := by
  rw [coreStep_ecbFinish s hp, ecbFinishStep_next s h16 hle,
    if_pos ((pkcs7Valid_memRead_iff h16).2 hpad)]

/-- Without a valid pad a permissive core gives the whole text out (R205). -/
theorem coreStep_finish_of_permissive (hp : s.phase = .ecbFinish) (h16 : 16 ≤ s.len.toNat)
    (hle : s.len.toNat ≤ s.params.msgBytes) (hpad : ¬ padValid s.msgByte s.len.toNat)
    (hpol : s.params.padPolicy = .permissive) :
    coreStep s = .next (finish none (setOutlen s.len.toNat (discardSchedule s))) := by
  rw [coreStep_ecbFinish s hp, ecbFinishStep_next s h16 hle,
    if_neg (mt (pkcs7Valid_memRead_iff h16).1 hpad), hpol]

/-- Without a valid pad a strict core destroys the text and raises InvalidPadding (R206). -/
theorem coreStep_finish_of_strict (hp : s.phase = .ecbFinish) (h16 : 16 ≤ s.len.toNat)
    (hle : s.len.toNat ≤ s.params.msgBytes) (hpad : ¬ padValid s.msgByte s.len.toNat)
    (hpol : s.params.padPolicy = .strict) :
    coreStep s = .next (raise .invalidPadding (setOutlen 0
      ((discardSchedule s).memWrite 0 (List.replicate s.len.toNat 0)))) := by
  rw [coreStep_ecbFinish s hp, ecbFinishStep_next s h16 hle,
    if_neg (mt (pkcs7Valid_memRead_iff h16).1 hpad), hpol]

/-- A text of zeros written over the start of MSG (R206). -/
theorem msgByte_memWrite_zeros (s : State) (l a : Nat) :
    (s.memWrite 0 (List.replicate l 0)).msgByte a = if a < l then 0 else s.msgByte a := by
  rw [State.msgByte_memWrite]
  by_cases h : a < l <;> simp [h]

/-- How the finish step ends, whichever its outcome: what it leaves unchanged (R203). -/
theorem finish_frame (e : Option CmdError) (n : Nat) (m : Memory) (s : State) :
    let t := finish e (setOutlen n { discardSchedule s with msg := m })
    t.rk = Schedule.zero ∧ t.sv = false ∧ sameKey s t ∧ t.state = s.state ∧ sameRest s t :=
  ⟨rfl, rfl, ⟨rfl, rfl⟩, rfl, rfl, rfl, rfl, rfl, rfl, rfl, rfl, rfl, rfl, rfl, rfl, rfl, rfl⟩

end

/-- Settles O26: the three outcomes of the check and the policy. -/
theorem ecbFinishStepRemovesThePad : Obligations.EcbFinishStepRemovesThePad := by
  intro s hp h16 hle
  by_cases hpad : padValid s.msgByte s.len.toNat
  · obtain ⟨hrk, hsv, hkey, hstate, hrest⟩ :=
      finish_frame none (s.len.toNat - (s.msgByte (s.len.toNat - 1)).toNat) s.msg s
    refine ⟨_, coreStep_finish_of_padValid hp h16 hle hpad, hrk, hsv, hkey, hstate, hrest,
      fun _ => ⟨?_, ⟨rfl, rfl, rfl, rfl, rfl⟩, fun _ => rfl⟩, fun h => absurd hpad h,
      fun h => absurd hpad h⟩
    exact Nat.mod_eq_of_lt (by omega)
  cases hpol : s.params.padPolicy with
  | permissive =>
    obtain ⟨hrk, hsv, hkey, hstate, hrest⟩ := finish_frame none s.len.toNat s.msg s
    exact ⟨_, coreStep_finish_of_permissive hp h16 hle hpad hpol, hrk, hsv, hkey, hstate, hrest,
      fun h => absurd h hpad,
      fun _ _ => ⟨by simp [setOutlen], ⟨rfl, rfl, rfl, rfl, rfl⟩, fun _ => rfl⟩, nofun⟩
  | strict =>
    obtain ⟨hrk, hsv, hkey, hstate, hrest⟩ :=
      finish_frame (some .invalidPadding) 0
        ((discardSchedule s).memWrite 0 (List.replicate s.len.toNat 0)).msg s
    exact ⟨_, coreStep_finish_of_strict hp h16 hle hpad hpol, hrk, hsv, hkey, hstate, hrest,
      fun h => absurd h hpad, nofun,
      fun _ _ => ⟨rfl, ⟨rfl, rfl, rfl, rfl, rfl⟩, fun a => msgByte_memWrite_zeros _ _ a⟩⟩

/-! ### The run of a whole job (R210, R211) -/

section
variable {s : State}

/-- What block steps on the blocks of a list, whichever come first, do to a state (R202): those blocks hold
their plaintext under RKB, every other byte reads as before, and the rest of the state is the job's. -/
structure DecryptsBlocks (bs : List Nat) (s t : State) : Prop where
  frame : ∃ m p f d, t = { s with msg := m, pending := p, phase := f, draws := d }
  msgByte : ∀ a, t.msgByte a =
    if a / 16 ∈ bs then (invCipher (s.readBlock (a / 16)) s.rk).byte (a % 16) else s.msgByte a

theorem DecryptsBlocks.refl (s : State) : DecryptsBlocks [] s s :=
  ⟨⟨s.msg, s.pending, s.phase, s.draws, rfl⟩, fun _ => (if_neg List.not_mem_nil).symm⟩

theorem DecryptsBlocks.rk_eq {bs : List Nat} {t : State} (h : DecryptsBlocks bs s t) :
    t.rk = s.rk := by
  obtain ⟨_, _, _, _, rfl⟩ := h.frame
  rfl

/-- A block among those decrypted holds its inverse cipher. -/
theorem DecryptsBlocks.readBlock_of_mem {bs : List Nat} {t : State} (h : DecryptsBlocks bs s t)
    {b : Nat} (hb : b ∈ bs) : t.readBlock b = invCipher (s.readBlock b) s.rk :=
  Block.ext_byte fun k hk => by
    rw [State.byte_readBlock t b hk, h.msgByte, show (16 * b + k) / 16 = b by omega, if_pos hb,
      show (16 * b + k) % 16 = k by omega]

/-- A block not among those decrypted is as it was. -/
theorem DecryptsBlocks.readBlock_of_not_mem {bs : List Nat} {t : State}
    (h : DecryptsBlocks bs s t) {b : Nat} (hb : b ∉ bs) : t.readBlock b = s.readBlock b :=
  Block.ofFn_congr fun k hk => by
    rw [h.msgByte, show (16 * b + k) / 16 = b by omega, if_neg hb]

/-- The core's block step (R202). -/
theorem blockDone_decryptsBlocks (b : Nat) (s : State) :
    DecryptsBlocks [b] s (blockDone b (countDraw s)) := by
  refine ⟨⟨_, _, _, _, blockDone_eq b (countDraw s)⟩, fun a => ?_⟩
  rw [msgByte_blockDone]
  simp only [List.mem_singleton]
  by_cases h : a / 16 = b
  · rw [if_pos h, if_pos h, h]
    rfl
  · rw [if_neg h, if_neg h, countDraw_msgByte]

/-- One block, then others. -/
theorem DecryptsBlocks.cons {b : Nat} {bs : List Nat} {t u : State} (hb : b ∉ bs)
    (h : DecryptsBlocks [b] s t) (hs : DecryptsBlocks bs t u) : DecryptsBlocks (b :: bs) s u := by
  refine ⟨?_, fun a => ?_⟩
  · obtain ⟨_, _, _, _, rfl⟩ := h.frame
    obtain ⟨m, p, f, d, rfl⟩ := hs.frame
    exact ⟨m, p, f, d, rfl⟩
  · rw [hs.msgByte, h.rk_eq, h.msgByte]
    by_cases hab : a / 16 = b
    · rw [if_neg (hab ▸ hb), if_pos (by simp [hab]), if_pos (by simp [hab])]
    · rw [h.readBlock_of_not_mem (by simpa using hab)]
      simp [hab]

/-- Only which blocks were decrypted matters, not their order. -/
theorem DecryptsBlocks.of_perm {bs cs : List Nat} {t : State} (h : DecryptsBlocks bs s t)
    (hperm : bs.Perm cs) : DecryptsBlocks cs s t :=
  ⟨h.frame, fun a => by rw [h.msgByte]; simp only [hperm.mem_iff]⟩

theorem coreRun_succ {t : State} (h : coreStep s = .next t) (n : Nat) :
    coreRun (n + 1) s = coreRun n t := by
  rw [coreRun, h]

theorem coreRun_one {t : State} (h : coreStep s = .next t) : coreRun 1 s = .next t :=
  coreRun_succ h 0

/-- A run of core steps, then more of them. -/
theorem coreRun_add {m : Nat} {t : State} (h : coreRun m s = .next t) (n : Nat) :
    coreRun (m + n) s = coreRun n t := by
  induction m generalizing s with
  | zero =>
    cases h
    rw [Nat.zero_add]
  | succ m ih =>
    rw [coreRun] at h
    split at h
    · next u hu => rw [Nat.succ_add, coreRun_succ hu, ih h]
    · cases h
    · cases h

/-- The core's steps on the `n` pending blocks, whichever is picked in each: all are decrypted, and the finish
step comes next (R202). PHASE is what a block step leaves, so that the end of the run is one of its states. -/
theorem coreRun_pending {n : Nat} (hn : s.pending.length = n)
    (hp : s.phase = if s.pending.isEmpty then .ecbFinish else .ecbBlocks)
    (hnd : s.pending.Nodup) (hin : ∀ b ∈ s.pending, b < s.params.msgBlocks) :
    ∃ t, coreRun n s = .next t ∧ t.phase = .ecbFinish ∧ DecryptsBlocks s.pending s t := by
  induction n generalizing s with
  | zero =>
    have hnil : s.pending = [] := List.length_eq_zero_iff.1 hn
    rw [hnil] at hp ⊢
    exact ⟨s, rfl, hp, DecryptsBlocks.refl s⟩
  | succ n ih =>
    have hne : s.pending ≠ [] := fun h => by simp [h] at hn
    rw [if_neg (by simpa using hne)] at hp
    have hstep := coreStep_of_pending hp hne hin
    have hmem := pickBlock_mem (Config.blockChoice s.draws) hne
    generalize pickBlock s.pending (Config.blockChoice s.draws) = b at hstep hmem
    have hpend : (blockDone b (countDraw s)).pending = s.pending.erase b :=
      blockDone_pending (countDraw s) b
    obtain ⟨t, hrun, hphase, hdone⟩ := ih (s := blockDone b (countDraw s))
      (by rw [hpend, List.length_erase_of_mem hmem, hn, Nat.add_sub_cancel])
      (by rw [hpend]; exact blockDone_phase (countDraw s) b)
      (by rw [hpend]; exact hnd.erase b)
      (fun c hc => by
        rw [blockDone_params]
        exact hin c (List.mem_of_mem_erase (hpend ▸ hc)))
    rw [hpend] at hdone
    exact ⟨t, (coreRun_succ hstep n).trans hrun, hphase,
      ((blockDone_decryptsBlocks b s).cons hnd.not_mem_erase hdone).of_perm
        (List.perm_cons_erase hmem).symm⟩

/-- The state after acceptance and a setup step that passed its checks (R95, R201). -/
def jobStarted (s : State) : State := startJob (setOutlen 0 (acceptCommand 0x00000020 s))

theorem coreStep_accept_ecbDecrypt (s : State) : coreStep (acceptCommand 0x00000020 s) =
    exec .ecbDecrypt (acceptCommand 0x00000020 s) :=
  coreStep_exec _ rfl (decode_of_encode rfl rfl)

/-- The setup step and the block steps of a job (R201, R202), counted from its acceptance. -/
theorem coreRun_job (hl : lengthLegal s.params s.len = true) (hm : s.kwmask = 0b1111) :
    ∃ t, coreRun (s.len.toNat / 16 + 1) (acceptCommand 0x00000020 s) = .next t ∧
      t.phase = .ecbFinish ∧ DecryptsBlocks (List.range (s.len.toNat / 16)) (jobStarted s) t := by
  obtain ⟨hne, hmod, hle⟩ := (lengthLegal_iff _ _).1 hl
  rw [Params.msgBytes] at hle
  have hsetup : coreStep (acceptCommand 0x00000020 s) = .next (jobStarted s) :=
    (coreStep_accept_ecbDecrypt s).trans (exec_ecbDecrypt_of_legal hl hm)
  obtain ⟨t, hrun, hphase, hdone⟩ := coreRun_pending (s := jobStarted s) (n := s.len.toNat / 16)
    List.length_range
    (by rw [if_neg (by simp [jobStarted]; omega)]; rfl)
    List.nodup_range
    (fun b hb => by
      have hb : b < s.len.toNat / 16 := List.mem_range.1 hb
      show b < s.params.msgBlocks
      omega)
  exact ⟨t, (coreRun_succ hsetup _).trans hrun, hphase, hdone⟩

/-- The finish step ends the command, and writes no byte from LEN on (R98, R203). -/
theorem coreStep_finish_ends {t : State} (hp : s.phase = .ecbFinish) (h : coreStep s = .next t) :
    t.busy = false ∧ t.done = true ∧ t.phase = .idle ∧
      ∀ a, s.len.toNat ≤ a → t.msgByte a = s.msgByte a := by
  rw [coreStep_ecbFinish s hp] at h
  obtain ⟨-, ⟨n, -, rfl⟩ | rfl⟩ := ecbFinishStep_cases h
  · exact ⟨rfl, rfl, rfl, fun _ _ => rfl⟩
  · refine ⟨rfl, rfl, rfl, fun a ha => (msgByte_memWrite_zeros (discardSchedule s) _ a).trans ?_⟩
    rw [if_neg (by omega), discardSchedule_msgByte]

/-- A job that its setup step ends with an error (R210, the first two rows). -/
theorem coreRun_one_of_raisesOnly {code : BitVec 4}
    (h : ∃ t, exec .ecbDecrypt (acceptCommand 0x00000020 s) = .next t ∧
      raisesOnly code (acceptCommand 0x00000020 s) t ∧ t.outlen = 0) :
    ∃ t, coreRun 1 (acceptCommand 0x00000020 s) = .next t ∧ completesWith code t ∧ sameMsg s t ∧
      t.outlen = 0 ∧ sameKey s t ∧ sameSchedule s t ∧ t.state = s.state ∧ t.len = s.len ∧
      t.doneIe = s.doneIe := by
  obtain ⟨t, hexec, ⟨hcode, hkey, hsched, hstate, hmsg, hlen, hie, -⟩, hout⟩ := h
  exact ⟨t, coreRun_one ((coreStep_accept_ecbDecrypt s).trans hexec), hcode, hmsg, hout, hkey,
    hsched, hstate, hlen, hie⟩

/-- The text when the block steps of a job are done (R210): the plaintext below LEN, and from there on what
MSG held. -/
theorem DecryptsBlocks.msgByte_job {t : State} (hmod : s.len.toNat % 16 = 0)
    (h : DecryptsBlocks (List.range (s.len.toNat / 16)) (jobStarted s) t) :
    (∀ a < s.len.toNat, t.msgByte a = plainByte s a) ∧
      ∀ a, s.len.toNat ≤ a → t.msgByte a = s.msgByte a := by
  refine ⟨fun a ha => ?_, fun a ha => ?_⟩
  · rw [h.msgByte, if_pos (List.mem_range.2 (by omega))]
    rfl
  · rw [h.msgByte, if_neg (mt List.mem_range.1 (by omega))]
    rfl

/-- What the setup step and the block steps of a job leave of the rest of the state (R95, R201, R202). -/
theorem DecryptsBlocks.job_frame {bs : List Nat} {t : State}
    (h : DecryptsBlocks bs (jobStarted s) t) :
    t.key = Block.zero ∧ t.kwmask = 0 ∧ t.state = s.state ∧ t.len = s.len ∧ t.doneIe = s.doneIe ∧
      t.params = s.params ∧ t.err = false ∧ t.errcode = 0 := by
  obtain ⟨_, _, _, _, rfl⟩ := h.frame
  exact ⟨rfl, rfl, rfl, rfl, rfl, rfl, rfl, rfl⟩

end

/-- Settles O29: each of the two blocks holds the inverse cipher of what it held, under one schedule. -/
theorem equalBlocksDecryptToEqualBlocks : Obligations.EqualBlocksDecryptToEqualBlocks := by
  intro s b c h0 hmod hle hm hb hc heq
  obtain ⟨t, hrun, hphase, hdone⟩ := coreRun_job ((lengthLegal_iff _ _).2 ⟨h0, hmod, hle⟩) hm
  refine ⟨t, hrun, hphase, ?_⟩
  calc t.readBlock b
      = invCipher (s.readBlock b) (jobStarted s).rk :=
        hdone.readBlock_of_mem (List.mem_range.2 hb)
    _ = invCipher (s.readBlock c) (jobStarted s).rk := by rw [heq]
    _ = t.readBlock c := (hdone.readBlock_of_mem (List.mem_range.2 hc)).symm

/-- Settles O28: the two raises by O24; else the block steps leave the plaintext, and O26 says how the finish
step ends on it. -/
theorem ecbJobResult : Obligations.EcbJobResult := by
  intro s
  obtain ⟨-, hsetup⟩ := ecbSetupStartsTheJob
  obtain ⟨-, hlength, hmissing⟩ := hsetup (acceptCommand 0x00000020 s)
  refine ⟨fun h => coreRun_one_of_raisesOnly (hlength h),
    fun h0 hmod hle hm => coreRun_one_of_raisesOnly (hmissing h0 hmod hle hm),
    fun h0 hmod hle hm => ?_⟩
  have h16 : 16 ≤ s.len.toNat := by omega
  obtain ⟨t, hrun, hphase, hdone⟩ := coreRun_job ((lengthLegal_iff _ _).2 ⟨h0, hmod, hle⟩) hm
  obtain ⟨hplain, hbeyond⟩ := hdone.msgByte_job hmod
  obtain ⟨htkey, htmask, htstate, htlen, htie, htparams, hterr, htcode⟩ := hdone.job_frame
  have hfinish := ecbFinishStepRemovesThePad t hphase
  rw [htlen, htparams, padValid_congr h16 hplain] at hfinish
  obtain ⟨u, hstep, hrk, hsv, ⟨hkey, hmask⟩, hstate, ⟨hlen, hie, -⟩, hvalid, hpermissive, hstrict⟩ :=
    hfinish h16 hle
  obtain ⟨hbusy, hdoneBit, hidle, hkept⟩ := coreStep_finish_ends hphase hstep
  rw [htlen] at hkept
  refine ⟨u, (coreRun_add hrun 1).trans (coreRun_one hstep), hbusy, hdoneBit, hidle,
    hkey.trans htkey, hmask.trans htmask, hrk, hsv, hstate.trans htstate, hlen.trans htlen,
    hie.trans htie, fun a ha => (hkept a ha).trans (hbeyond a ha), fun hpad => ?_,
    fun hpad hpol => ?_, fun hpad hpol => ?_⟩
  · obtain ⟨hout, ⟨-, -, -, herr, hcode⟩, hmsg⟩ := hvalid hpad
    rw [hplain _ (by omega)] at hout
    exact ⟨herr.trans hterr, hcode.trans htcode, fun a ha => (hmsg a).trans (hplain a ha), hout⟩
  · obtain ⟨hout, ⟨-, -, -, herr, hcode⟩, hmsg⟩ := hpermissive hpad hpol
    exact ⟨herr.trans hterr, hcode.trans htcode, fun a ha => (hmsg a).trans (hplain a ha), hout⟩
  · obtain ⟨hout, ⟨-, -, -, herr, hcode⟩, hmsg⟩ := hstrict hpad hpol
    exact ⟨herr, hcode, fun a ha => by rw [hmsg, if_pos ha], hout⟩

end Sys2Proof.Machine
end

section
/-! SUPPORT. The family of 70_reset_and_hazards.md: what the reset leaves, and that every run ends. A step uses
up a line of the host, or a step of the running command, or one of the finitely many turns that the host has
before the core's next one. -/

namespace Sys2Proof.Machine

/-! ### Reset (R280 to R282) -/

/-- Settles O57: the fields of `resetCore`; its draw number is new because the last reset is past. -/
theorem resetAbandonsTheCommand : Obligations.ResetAbandonsTheCommand := fun s h =>
  ⟨resetCore s, rfl, rfl, rfl, rfl, rfl, rfl, fun _ => rfl, Nat.lt_succ_of_le h.epochPast,
    rfl, rfl, rfl, rfl, rfl, rfl, rfl, rfl, rfl, rfl, rfl, rfl, rfl, rfl, rfl⟩

/-! ### The core's turn comes (R289) -/

/-- A step from `s` to `t` is the host's by the turns to come, and takes one of them. -/
def HostTurn (t s : State) : Prop := agentChosen s = .host ∧ t.turns = (takeTurn s).turns

theorem turnsAhead_of_turns {s : State} (h : s.turns ≠ []) : turnsAhead s = s.turns := by
  unfold turnsAhead
  cases hs : s.turns with
  | nil => exact absurd hs h
  | cons a ts => rfl

theorem turnsAhead_of_no_turns {s : State} (h : s.turns = []) : turnsAhead s = drawnTurns s.draws := by
  unfold turnsAhead
  rw [h]

/-- Once a turn of the core's is in sight the host's turns before it run out. -/
theorem acc_hostTurn_of_core_mem (ts : List Agent) (hcore : .core ∈ ts) :
    ∀ s, turnsAhead s = ts → Acc HostTurn s := by
  induction ts with
  | nil => exact absurd hcore List.not_mem_nil
  | cons a ts ih =>
    refine fun s hs => ⟨s, fun t ⟨hhost, hturns⟩ => ?_⟩
    obtain ⟨ha, hts⟩ := List.cons.inj (hs.symm.trans (turnsAhead_eq s))
    have hmem : .core ∈ ts := by simpa [ha, hhost] using hcore
    have ht : t.turns = ts := hturns.trans hts.symm
    exact ih hmem t ((turnsAhead_of_turns (ht ▸ List.ne_nil_of_mem hmem)).trans ht)

/-- A list of turns without the core's ends, and the turns drawn then have one of the core's. -/
theorem acc_hostTurn_of_turns (ts : List Agent) : ∀ s, s.turns = ts → Acc HostTurn s := by
  induction ts with
  | nil =>
    exact fun s hs => acc_hostTurn_of_core_mem _ (core_mem_drawnTurns s.draws) s
      (turnsAhead_of_no_turns hs)
  | cons a ts ih =>
    refine fun s hs => ⟨s, fun t ⟨_, hturns⟩ => ih t (hturns.trans ?_)⟩
    rw [takeTurn_turns, turnsAhead_of_turns (hs ▸ List.cons_ne_nil a ts), hs, List.tail_cons]

/-- The weak fairness of the core: the host does not have every turn. -/
theorem wellFounded_hostTurn : WellFounded HostTurn :=
  ⟨fun s => acc_hostTurn_of_turns s.turns s rfl⟩

/-! ### What a step leaves of the host's list -/

theorem CommandWrites.hostOps_eq {s u : State} (h : CommandWrites s u) : u.hostOps = s.hostOps := by
  cases h <;> rfl

/-- The core leaves the host's list alone. -/
theorem coreStep_hostOps {s t : State} (h : coreStep s = .next t) : t.hostOps = s.hostOps := by
  rcases coreStep_cases h with ⟨-, i, hd, hi⟩ | ⟨-, -, rfl⟩ | ⟨-, -, hblk⟩ | ⟨-, hf⟩
  · obtain ⟨hrd, hwr⟩ := decode_ok_command hd
    obtain ⟨e, u, hu, rfl⟩ | ⟨-, -, rfl⟩ := exec_command_cases hrd hwr hi
    · exact hu.hostOps_eq
    · rfl
  · rfl
  · obtain ⟨-, rfl⟩ := decryptBlock_cases hblk
    exact blockDone_hostOps _ _
  · obtain ⟨-, ⟨n, -, rfl⟩ | rfl⟩ := ecbFinishStep_cases hf <;> rfl

theorem writeRegIdle_hostOps (r : Reg) (d : Word) (s : State) :
    (writeRegIdle r d s).hostOps = s.hostOps := by
  cases r <;> rfl

theorem exec_wr_hostOps {off : Offset} {d : Word} {be : BitVec 4} {s t : State}
    (h : exec (.wr off d be) s = .next t) : t.hostOps = s.hostOps := by
  rcases execWr_cases h with ⟨-, rfl⟩ | ⟨-, -, -, rfl⟩ | ⟨-, -, rfl⟩
  · rfl
  · rfl
  · exact writeRegIdle_hostOps _ d s

/-- A `wait` line stands again while BUSY = 1, and changes neither the job nor the turns (R104). -/
theorem hostStep_wait {s t : State} (h : hostStep .wait s = .next t) :
    t.hostOps = (if s.busy then .wait :: s.hostOps else s.hostOps) ∧ t.busy = s.busy ∧
      t.turns = s.turns ∧ stepsLeft t = stepsLeft s := by
  obtain ⟨u, r, hu, hut⟩ := waitRepeatsWhileBusy s
  obtain rfl : u = t := Host.Outcome.next.inj (hu.symm.trans h)
  rw [hut]
  exact ⟨rfl, rfl, rfl, rfl⟩

/-- Of the lines only `wait` comes back into the list: the others are done once (R101, R104, R280). -/
theorem hostStep_hostOps_length {l : HostLine} {s t : State} (hl : l ≠ .wait)
    (h : hostStep l s = .next t) : t.hostOps.length ≤ s.hostOps.length := by
  cases l with
  | rd off =>
    obtain ⟨r, rfl⟩ := execRd_cases h
    exact le_rfl
  | wr off d be => exact (exec_wr_hostOps h).symm ▸ le_rfl
  | wait => exact absurd rfl hl
  | expect off value =>
    obtain ⟨u, v, hu, -, hsame, hother⟩ := expectFailsOnAnotherValue s off value
    obtain ⟨r, rfl⟩ := execRd_cases hu
    by_cases hv : v = value
    · cases (hsame hv).symm.trans h
      exact le_rfl
    · cases (hother hv).symm.trans h
      exact Nat.zero_le _
  | rst =>
    cases h
    exact le_rfl

/-! ### Every run ends (R289, R291) -/

/-- What a run uses up: the host's lines, then the core's steps, then the host's turns before the core's. -/
def Progress (t s : State) : Prop :=
  t.hostOps.length < s.hostOps.length ∨
    t.hostOps.length = s.hostOps.length ∧
      (stepsLeft t < stepsLeft s ∨ stepsLeft t = stepsLeft s ∧ HostTurn t s)

theorem wellFounded_progress : WellFounded Progress := by
  have hlt : WellFounded fun m n : Nat => m < n := wellFounded_lt
  have hlex := hlt.prod_lex (hlt.prod_lex wellFounded_hostTurn)
  refine Subrelation.wf (fun {t s} h => ?_)
    (InvImage.wf (fun s : State => (s.hostOps.length, stepsLeft s, s)) hlex)
  simpa only [InvImage, Prod.lex_iff, Progress] using h

/-- A step of a run that has not ended: a core step, the line `wait` again, or a line done. -/
theorem step_progress {s t : State} (hrun : ¬ runEnded s) (h : step s = .next t) : Progress t s := by
  obtain ⟨hb, hops, -⟩ | ⟨-, -, hcore⟩ | ⟨l, ls, hops, hturn, hhost⟩ := step_cases h
  · exact absurd ⟨hops, hb⟩ hrun
  · have hops : t.hostOps = s.hostOps := coreStep_hostOps (s := takeTurn s) hcore
    have hlt : stepsLeft t < stepsLeft s := stepsLeft_lt_of_coreStep (s := takeTurn s) hcore
    exact .inr ⟨congrArg List.length hops, .inl hlt⟩
  · have hlen : s.hostOps.length = ls.length + 1 := by rw [hops, List.length_cons]
    by_cases hl : l = .wait
    · subst hl
      obtain ⟨hwait, -, hturns, hleft⟩ := hostStep_wait hhost
      cases hb : s.busy with
      | false =>
        rw [if_neg (by simp [hb])] at hwait
        exact .inl (by rw [hwait, hlen]; exact Nat.lt_succ_self _)
      | true =>
        rw [if_pos (by simp [hb])] at hwait
        have hchosen : agentChosen s = .host := by simpa [hb] using hturn
        exact .inr ⟨by rw [hwait, hlen, List.length_cons], .inr ⟨hleft, hchosen, hturns⟩⟩
    · have hle : t.hostOps.length ≤ ls.length := hostStep_hostOps_length hl hhost
      exact .inl (by omega)

/-- Induction along a run: from every state of the invariant it comes to an end. -/
theorem run_induction {P : ∀ s, Invariant s → Prop}
    (ended : ∀ s (h : Invariant s), runEnded s → P s h)
    (next : ∀ s t (h : Invariant s) (h' : Invariant t), step s = .next t → P t h' → P s h)
    {s : State} (h : Invariant s) : P s h := by
  induction s using wellFounded_progress.induction with
  | _ s ih =>
    by_cases hrun : runEnded s
    · exact ended s h hrun
    · obtain ⟨t, ht⟩ := stepNeverStops s h
      exact next s t h (stepKeepsInv s t h ht) ht (ih t (step_progress hrun ht) _)

/-- Some number of steps leads to a state with `Q`. -/
def LeadsTo (s : State) (Q : State → Prop) : Prop := ∃ n t, stepRun n s = .next t ∧ Q t

theorem LeadsTo.now {s : State} {Q : State → Prop} (h : Q s) : LeadsTo s Q := ⟨0, s, rfl, h⟩

theorem LeadsTo.step {s t : State} {Q : State → Prop} (h : step s = .next t) (ht : LeadsTo t Q) :
    LeadsTo s Q := by
  obtain ⟨n, u, hu, hQ⟩ := ht
  exact ⟨n + 1, u, by rw [stepRun, h]; exact hu, hQ⟩

theorem LeadsTo.imp {s : State} {Q R : State → Prop} (h : LeadsTo s Q) (hQR : ∀ t, Q t → R t) :
    LeadsTo s R := by
  obtain ⟨n, t, hrun, hQ⟩ := h
  exact ⟨n, t, hrun, hQR t hQ⟩

/-- Settles O11: by induction along the run. -/
theorem everyRunEnds : Obligations.EveryRunEnds := by
  intro s h
  induction h using run_induction with
  | ended s h hend => exact LeadsTo.now ⟨hend, h⟩
  | next s t _ _ hst ih => exact LeadsTo.step hst ih

/-! ### The core moves, and a wait ends (R289, R104) -/

/-- The job of `s` stands in `t`: BUSY is 1, PHASE, PENDING and CMDL are as they were. -/
def JobStands (s t : State) : Prop :=
  t.busy = true ∧ t.phase = s.phase ∧ t.pending = s.pending ∧ t.cmdl = s.cmdl

theorem JobStands.trans {s t u : State} (h : JobStands s t) (h' : JobStands t u) : JobStands s u := by
  obtain ⟨-, hphase, hpending, hcmdl⟩ := h
  obtain ⟨hb', hphase', hpending', hcmdl'⟩ := h'
  exact ⟨hb', hphase'.trans hphase, hpending'.trans hpending, hcmdl'.trans hcmdl⟩

/-- A host step that is no reset leaves a running job as it stands (R83, R96). -/
theorem jobStands_of_step {s t : State} (hb : s.busy = true) (hcore : ¬ coreMoves s)
    (hrst : ¬ ∃ ls, s.hostOps = .rst :: ls) (h : step s = .next t) : JobStands s t := by
  obtain ⟨hidle, -, -⟩ | ⟨-, hturn, -⟩ | ⟨l, ls, hops, -, hhost⟩ := step_cases h
  · simp [hb] at hidle
  · exact absurd ⟨hb, hturn⟩ hcore
  · have hl : l ≠ .rst := fun hl => hrst ⟨ls, hl ▸ hops⟩
    obtain ⟨-, -, -, -, -, -, hcmdl, hphase, hpending, -, hbusy⟩ :=
      runningJobIsImmutable { takeTurn s with hostOps := ls } t l hb hl hhost
    exact ⟨hbusy, hphase, hpending, hcmdl⟩

/-- While a command runs the core's next step comes, unless a reset does. -/
theorem leadsTo_coreMoves {s : State} (h : Invariant s) (hb : s.busy = true) :
    LeadsTo s fun t => JobStands s t ∧ (coreMoves t ∨ ∃ ls, t.hostOps = .rst :: ls) := by
  induction h using run_induction with
  | ended s _ hend => exact absurd hb (by simp [hend.2])
  | next s t _ _ hst ih =>
    by_cases hnow : coreMoves s ∨ ∃ ls, s.hostOps = .rst :: ls
    · exact .now ⟨⟨hb, rfl, rfl, rfl⟩, hnow⟩
    · obtain ⟨hcore, hrst⟩ := not_or.1 hnow
      have hjob := jobStands_of_step hb hcore hrst hst
      exact ((ih hjob.1).step hst).imp fun u ⟨hstands, hmoves⟩ => ⟨hjob.trans hstands, hmoves⟩

/-- A `wait` at the head of the list stays there until BUSY = 0, and is then done. -/
theorem step_of_wait {s t : State} {ls : List HostLine} (hops : s.hostOps = .wait :: ls)
    (h : step s = .next t) : t.hostOps = .wait :: ls ∨ t.busy = false ∧ t.hostOps = ls := by
  obtain ⟨-, hnil, -⟩ | ⟨-, -, hcore⟩ | ⟨l, ls', hops', -, hhost⟩ := step_cases h
  · simp [hops] at hnil
  · exact .inl ((coreStep_hostOps hcore).trans hops)
  · obtain ⟨rfl, rfl⟩ := List.cons.inj (hops.symm.trans hops')
    obtain ⟨hwait, hbusy, -⟩ := hostStep_wait hhost
    cases hb : s.busy with
    | false => exact .inr ⟨hbusy.trans hb, hwait.trans (if_neg (by simp [hb]))⟩
    | true => exact .inl (hwait.trans (if_pos (by simp [hb])))

theorem leadsTo_wait_done {s : State} (h : Invariant s) {ls : List HostLine}
    (hops : s.hostOps = .wait :: ls) : LeadsTo s fun t => t.busy = false ∧ t.hostOps = ls := by
  induction h using run_induction with
  | ended s _ hend => exact absurd hops (by simp [hend.1])
  | next s t _ _ hst ih =>
    obtain hwait | hdone := step_of_wait hops hst
    · exact (ih hwait).step hst
    · exact .step hst (.now hdone)

/-- Settles O10: by induction along the run, which ends with BUSY = 0 (O11). -/
theorem coreMovesAndWaitEnds : Obligations.CoreMovesAndWaitEnds := by
  intro s h
  refine ⟨fun hb => ?_, fun _ => ?_, fun ls hops => leadsTo_wait_done h hops⟩
  · exact (leadsTo_coreMoves h hb).imp fun t ⟨⟨hbusy, hphase, hpending, hcmdl⟩, hmoves⟩ =>
      ⟨hbusy, hphase, hpending, hcmdl, hmoves⟩
  · exact LeadsTo.imp (everyRunEnds s h) fun t ⟨⟨_, hidle⟩, _⟩ => hidle

end Sys2Proof.Machine
end
